-- ==== Sys2Proof/Word.lean ====
section
/-! DEFINITION. The word types of DSLFO and the closed sets of names its rules use (spec 00_scope.md R9, R11, R18;
10_state.md R26, R27, R42; 60_exceptions.md R134, R135). -/

namespace Sys2Proof

/-- A 32-bit word: a command word, or the data of one host bus access (R49, R66). -/
abbrev Word := BitVec 32

/-- A byte offset in the 13-bit host register space (R49). -/
abbrev Addr := BitVec 13

/-- An FX64 value: a signed 64-bit two's-complement integer `s` that denotes `s / 2^32` (R11).
Its raw integer is `toInt`. -/
abbrev FX64 := BitVec 64

/-- A phase: an unsigned 32-bit integer `p` that denotes `p / 2^32` of one period (R18). -/
abbrev Phase := BitVec 32

/-- `ONE`, raw 2^32, the FX64 value 1.0 (R11). -/
abbrev ONE : FX64 := 0x0000000100000000#64

/-- `HALF`, raw 2^31, the FX64 value 0.5 (R11). -/
abbrev HALF : FX64 := 0x0000000080000000#64

/-- The two oscillator units: `osc` is number 0, the audible oscillator, and `lfo` is number 1 (R82). -/
inductive OscId where
  | osc
  | lfo
  deriving DecidableEq, Repr

/-- The two waveforms (R26). -/
inductive Waveform where
  | square
  | sine
  deriving DecidableEq, Repr

/-- The filter mode, one bit: 0 = LOWPASS, 1 = HIGHPASS (R27). -/
inductive FilterMode where
  | lowpass
  | highpass
  deriving DecidableEq, Repr

/-- The curve of a ParameterMap slot, one bit: 0 = LINEAR, 1 = LOGARITHMIC (R42). -/
inductive Curve where
  | linear
  | logarithmic
  deriving DecidableEq, Repr

/-- The reasons for which decoding a command word fails, in the order of their codes 1 to 5 (R36, R134). -/
inductive CmdError where
  | badOpc
  | badRsv
  | badSel
  | badImm
  | badSize
  deriving DecidableEq, Repr

/-- The contract-violation codes of the model-only record `st.viol` (R135). -/
inductive Violation where
  /-- V_RAW_RANGE: a ParameterMap reading below 0 or above ONE. -/
  | rawRange
  /-- V_LOG_CFG: a LOGARITHMIC slot evaluated with min ≤ 0 or max ≤ 0. -/
  | logCfg
  /-- V_FREQ_RANGE: an oscillator or the LFO processed with freq ≤ 0 or freq ≥ SR/2. -/
  | freqRange
  /-- V_FC_RANGE: the filter processed with fc ≤ 0 or fc ≥ SR/2. -/
  | fcRange
  /-- V_DLEN_RANGE: a delay target, or the current delay when read, below 0 or at least CAP. -/
  | dlenRange
  /-- V_FB_RANGE: a feedback gain below 0 or above ONE. -/
  | fbRange
  /-- V_BUSY_WRITE: a host write to an operand, control-frame or configuration register while BUSY = 1. -/
  | busyWrite
  deriving DecidableEq, Repr

/-- The two agents that take steps (R23). -/
inductive Agent where
  | host
  | engine
  deriving DecidableEq, Repr

end Sys2Proof
end

