-- ==== Sys2Proof/Config.lean ====
section
/-! DEFINITION. What is fixed for the machine: the implementation parameters of 00_scope.md R7, the three kernels under the
contracts of R77, R84 and R92, and the free values. -/

namespace Sys2Proof

namespace Config

/-- NSLOT, the number of ParameterMap slots (R7). -/
abbrev nslot : Nat := 6

/-- NCH, the number of output channels (R7). -/
abbrev nch : Nat := 2

/-- NSEG, the number of display ring segments (R7). -/
abbrev nseg : Nat := 8

/-- SEG_W = flit(0.125), the volume per segment: NSEG segments make up the volume ONE (R7, R16). -/
abbrev segW : FX64 := 0x0000000020000000#64

/-- The samples of one channel for which the OUTBUF window 0x1000 to 0x1FFF has room (R50). -/
abbrev outbufRoom : Nat := 256

/-- OSC_WAVE = SQUARE and LFO_WAVE = SINE, the fixed waveforms (R7, R83). -/
def waveform : OscId → Waveform
  | .osc => .square
  | .lfo => .sine

/-- BASE, the base address of the register block in the host's address space: OPEN (R50, D43).
Every address of the model is an offset from it. -/
opaque base : Nat

/-- T_CMD(op), the latency in cycles of the command with opcode byte `op`: OPEN. No rule reads it (R159, D44). -/
opaque tCmd : BitVec 8 → Nat

/-- The free FX64 values of `draw()` (R10): the `n`-th draw of a run. Nothing constrains it (log entry 3). -/
opaque draw : Nat → FX64

/-- The free word that the `n`-th draw gives a host read while BUSY = 1 (R58; log entry 3). -/
opaque drawWord : Nat → Word

end Config

/-- The sine over one period, from its values `mid` away from the four quarter phases:
the values at 0, 2^30, 2^31 and 3 × 2^30 are the ones condition 2 of R84 fixes. -/
def sinCurve (mid : Phase → FX64) (p : Phase) : FX64 :=
  if p = 0x00000000#32 then 0
  else if p = 0x40000000#32 then ONE
  else if p = 0x80000000#32 then 0
  else if p = 0xC0000000#32 then -ONE
  else mid p

/-- The logarithmic curve, from its values `mid` elsewhere: the values at raw = 0 and raw = ONE are the ones condition 1
of R77 fixes, and a slot whose ends are equal gives that constant for every reading (R81). Rule R78 reads it only for
mn > 0 and mx > 0. -/
def logCurve (mid : FX64 → FX64 → FX64 → FX64) (mn mx raw : FX64) : FX64 :=
  if raw = 0 then mn else if raw = ONE then mx else if mn = mx then mn else mid mn mx raw

/-- What one filter update returns: the new integrator states and the two taps (R92). -/
structure SvfOut where
  s1 : FX64
  s2 : FX64
  lo : FX64
  hi : FX64
  deriving DecidableEq, Repr, Inhabited

/-- Condition 1 of R84 for one value of the sine. -/
abbrev SinInRange (v : FX64) : Prop := (-ONE).toInt ≤ v.toInt ∧ v.toInt ≤ ONE.toInt

/-- Condition 2 of R77: on legal ranges and 0 ≤ raw ≤ ONE the curve is non-decreasing where mx ≥ mn and
non-increasing where mx < mn. With the end values of `logCurve` it gives condition 3. -/
def LogMonotonic (mid : FX64 → FX64 → FX64 → FX64) : Prop :=
  ∀ mn mx r r' : FX64, 0 < mn.toInt → 0 < mx.toInt → 0 ≤ r.toInt → r.toInt ≤ r'.toInt → r'.toInt ≤ ONE.toInt →
    (mn.toInt ≤ mx.toInt → (logCurve mid mn mx r).toInt ≤ (logCurve mid mn mx r').toInt) ∧
    (mx.toInt < mn.toInt → (logCurve mid mn mx r').toInt ≤ (logCurve mid mn mx r).toInt)

/-- The three numerical kernels that the model takes as arguments: SIN (R84), LOGMAP (R77) and SVF (R92), each with
its contract. `sinCurve sinMid` and `logCurve logMid` range over exactly the functions that meet R84, R77 and the
constant case of R81; `svf` is a total function of its six inputs and does not take the mode (R92 conditions 1 and 2). -/
structure Kernels where
  sinMid : Phase → FX64
  sinMid_range : ∀ p, SinInRange (sinMid p)
  logMid : FX64 → FX64 → FX64 → FX64
  logMid_monotonic : LogMonotonic logMid
  /-- SVF(fc, res, drive, s1, s2, x). Its equations are OPEN (R92, D25). -/
  svf : FX64 → FX64 → FX64 → FX64 → FX64 → FX64 → SvfOut

/-- SVF of this hardware. Its equations are OPEN (R92, D25): nothing constrains the function but its type (log entry 2). -/
opaque Config.svf : FX64 → FX64 → FX64 → FX64 → FX64 → FX64 → SvfOut

/-- The implementation parameters of R7 that a configuration may override. Every operation takes them as an argument.
The default of a field is the value this hardware has; CAP and NYQ follow from SR (log entry 1). -/
structure Params where
  /-- SR, the sample rate in Hz, a positive integer. -/
  sampleRate : Nat := 48000
  sampleRate_pos : 0 < sampleRate := by decide
  /-- SMOOTH_RATE = flit(0.0002), raw 858993 (R16). -/
  smoothRate : FX64 := 0x00000000000D1B71#64
  /-- VOL_STEP = flit(0.05), raw 214748365 (R16). -/
  volStep : FX64 := 0x000000000CCCCCCD#64
  /-- BLK_MAX, the largest block size. The register map has room for 256 (R50). -/
  blkMax : Nat := 256
  blkMax_le : blkMax ≤ Config.outbufRoom := by decide
  /-- SEED_OSC, the oscillator's phase after reset. -/
  seedOsc : Phase := 0
  /-- SEED_LFO, the LFO's phase after reset. -/
  seedLfo : Phase := 0
  /-- VOL_RESET, the volume after reset. The volume is kept in [0, ONE] (R29). -/
  volReset : FX64 := 0
  volReset_range : 0 ≤ volReset.toInt ∧ volReset.toInt ≤ ONE.toInt := by decide
  /-- SIN, LOGMAP and SVF: the configuration fields of R84, R77 and R92. -/
  kernels : Kernels

/-- CAP = floor(2.5 × SR), the number of entries of the delay buffer (R8). -/
abbrev Params.cap (P : Params) : Nat := 5 * P.sampleRate / 2

/-- NYQ = SR × 2^31, the raw integer of SR/2 (R86). -/
abbrev Params.nyq (P : Params) : Int := (P.sampleRate : Int) * 2 ^ 31

end Sys2Proof
end

