-- ==== Sys2Proof/Machine/Numbers.lean ====
section
/-! DEFINITION. The FX64 and phase primitives (00_scope.md R9 to R18, R20). Each converts its operands to integers,
computes exactly, and narrows at the end. -/

namespace Sys2Proof

/-- `sat(x)`: the integer `x` brought into the FX64 range (R12). -/
def sat (x : Int) : FX64 :=
  BitVec.ofInt 64 (min (max x (-2 ^ 63)) (2 ^ 63 - 1))

theorem toInt_lower (a : FX64) : -2 ^ 63 ≤ a.toInt := by
  have := BitVec.le_toInt a; omega

theorem toInt_upper (a : FX64) : a.toInt ≤ 2 ^ 63 - 1 := by
  have := BitVec.toInt_lt (x := a); omega

theorem sat_toInt (x : Int) : (sat x).toInt = min (max x (-2 ^ 63)) (2 ^ 63 - 1) := by
  unfold sat
  rw [BitVec.toInt_ofInt_eq_self] <;> omega

theorem sat_toInt_of_bounds {x : Int} (h : -2 ^ 63 ≤ x) (h' : x ≤ 2 ^ 63 - 1) : (sat x).toInt = x := by
  rw [sat_toInt]; omega

@[simp] theorem sat_toInt_self (a : FX64) : sat a.toInt = a :=
  BitVec.eq_of_toInt_eq (sat_toInt_of_bounds (toInt_lower a) (toInt_upper a))

/-- Saturation keeps the order. -/
theorem sat_mono {x y : Int} (h : x ≤ y) : (sat x).toInt ≤ (sat y).toInt := by
  rw [sat_toInt, sat_toInt]; omega

/-- `fadd(a, b) = sat(a + b)` (R13). -/
def fadd (a b : FX64) : FX64 := sat (a.toInt + b.toInt)

/-- `fsub(a, b) = sat(a − b)` (R13). -/
def fsub (a b : FX64) : FX64 := sat (a.toInt - b.toInt)

/-- `fneg(a) = sat(−a)` (R13). -/
def fneg (a : FX64) : FX64 := sat (-a.toInt)

/-- `fmul(a, b) = sat((a × b) >> 32)`: the exact product, rounded toward minus infinity (R14). -/
def fmul (a b : FX64) : FX64 := sat (a.toInt * b.toInt / 2 ^ 32)

/-- `fint(n) = sat(n × 2^32)` (R15). -/
def fint (n : Int) : FX64 := sat (n * 2 ^ 32)

/-- `ffloor(a) = a >> 32` (R15). -/
def ffloor (a : FX64) : Int := a.toInt / 2 ^ 32

/-- `ffrac(a) = a mod 2^32`, an unsigned 32-bit fraction (R15). -/
def ffrac (a : FX64) : BitVec 32 := a.extractLsb' 0 32

/-- The integer nearest to `n / d`, ties to even, for d > 0 (R16). -/
def nearestEven (n d : Int) : Int :=
  if 2 * (n % d) < d then n / d
  else if d < 2 * (n % d) then n / d + 1
  else if n / d % 2 = 0 then n / d
  else n / d + 1

/-- `flit(c)` of the rational constant c = n / d, d > 0 (R16). -/
def flit (n d : Int) : FX64 := sat (nearestEven (n * 2 ^ 32) d)

/-- `fclamp(a, lo, hi)`, comparing raw integers (R17). -/
def fclamp (a lo hi : FX64) : FX64 :=
  if a.toInt < lo.toInt then lo else if hi.toInt < a.toInt then hi else a

/-- `phinc(f) = (f div SR) mod 2^32` (R18). -/
def phinc (P : Params) (f : FX64) : Phase := BitVec.ofInt 32 (f.toInt / P.sampleRate)

/-- `phadv(p, f) = (p + phinc(f)) mod 2^32` (R18). -/
def phadv (P : Params) (p : Phase) (f : FX64) : Phase := p + phinc P f

/-- `phfx(p) = zext_64(p)`, the FX64 value of a phase (R18). -/
def phfx (p : Phase) : FX64 := p.zeroExtend 64

/-- A UQ0.16 reading widened to FX64: `zext_64(k) << 16` (R20). -/
def widenReading (k : BitVec 16) : FX64 := k.zeroExtend 64 <<< 16

/-- Bits 31:0 of a 64-bit register (R54). -/
def loHalf (v : FX64) : Word := v.extractLsb' 0 32

/-- Bits 63:32 of a 64-bit register (R54). -/
def hiHalf (v : FX64) : Word := v.extractLsb' 32 32

/-- Replace bits 31:0 of a 64-bit register (R54). -/
def setLo (v : FX64) (x : Word) : FX64 := hiHalf v ++ x

/-- Replace bits 63:32 of a 64-bit register (R54). -/
def setHi (v : FX64) (x : Word) : FX64 := x ++ loHalf v

end Sys2Proof
end

