-- ==== Sys2Proof/Machine/Reference.lean ====
section
/-! DEFINITION. The reference instances SIN_REF (R84) and LOGMAP_REF (R77), which are this hardware's sine and logarithmic
curve, as exact functions on integers, with the proofs that they round the real values the rules name and so meet the
contracts of `Kernels`; then this hardware's kernels and parameters. -/

namespace Sys2Proof

/-! ### Rounding a real number that can be compared with integers -/

/-- `n` is the integer nearest to the real `x`, ties to even: RNE of R77 and R84. -/
def IsNearestEven (n : Int) (x : ℝ) : Prop :=
  |x - n| ≤ 1 / 2 ∧ (|x - n| = 1 / 2 → n % 2 = 0)

/-- The largest integer from `lo` up to `lo + 2^bits − 1` that is `below`, where `below` holds up to some point. -/
def bisect (below : Int → Bool) : Nat → Int → Int
  | 0, lo => lo
  | n + 1, lo => if below (lo + 2 ^ n) then bisect below n (lo + 2 ^ n) else bisect below n lo

/-- RNE(x), where `f` is the floor of `2x` and `exact` says that it is `2x`. -/
def roundHalves (f : Int) (exact : Bool) : Int :=
  if f % 2 = 0 ∨ (exact = true ∧ f / 2 % 2 = 0) then f / 2 else f / 2 + 1

/-- RNE(x), where `order m` is the order of `2x` and the integer `m`, and `2x` lies from `lo` up to `lo + 2^bits`. -/
def nearestOf (order : Int → Ordering) (lo : Int) (bits : Nat) : Int :=
  let f := bisect (fun m => order m != .lt) bits lo
  roundHalves f (order f == .eq)

theorem bisect_spec {order : Int → Ordering} {y : ℝ} : ∀ {n : Nat} {lo : Int},
    (∀ m, lo ≤ m → (order m).Compares y m) → lo ≤ y →
    let f := bisect (fun m => order m != .lt) n lo
    lo ≤ f ∧ f ≤ y ∧ (y < f + 1 ∨ f + 1 = lo + 2 ^ n)
  | 0, lo, _, hl => by simpa [bisect] using hl
  | n + 1, lo, h, hl => by
    have hp : (0 : Int) < 2 ^ n := by positivity
    have hc := h (lo + 2 ^ n) (by omega)
    unfold bisect
    split
    · have hy : ((lo + 2 ^ n : Int) : ℝ) ≤ y := by
        cases ho : order (lo + 2 ^ n) <;> simp_all [Ordering.Compares, le_of_lt]
      obtain ⟨a, b, d⟩ := bisect_spec (n := n) (fun m hm => h m (by omega)) hy
      exact ⟨by omega, b, d.imp_right fun e => by rw [e, pow_succ]; ring⟩
    · have hy : y < ((lo + 2 ^ n : Int) : ℝ) := by
        cases ho : order (lo + 2 ^ n) <;> simp_all [Ordering.Compares]
      obtain ⟨a, b, d⟩ := bisect_spec (n := n) h hl
      refine ⟨a, b, .inl (d.elim id fun e => ?_)⟩
      rw [← e] at hy
      exact_mod_cast hy

theorem roundHalves_spec {f : Int} {exact : Bool} {x : ℝ} (h : f ≤ 2 * x) (h' : 2 * x < f + 1)
    (he : exact = true ↔ 2 * x = f) : IsNearestEven (roundHalves f exact) x := by
  have hf : (f : ℝ) = 2 * ((f / 2 : Int) : ℝ) + ((f % 2 : Int) : ℝ) := by
    exact_mod_cast (Int.mul_ediv_add_emod f 2).symm
  unfold IsNearestEven roundHalves
  rcases Int.emod_two_eq_zero_or_one f with h0 | h0 <;> rw [h0] at hf <;> push_cast at hf
  · rw [if_pos (.inl h0), abs_of_nonneg (by linarith)]
    exact ⟨by linarith, fun h => by linarith⟩
  · split
    · rename_i hc
      obtain ⟨e, ev⟩ := hc.resolve_left (by omega)
      exact ⟨by rw [abs_of_nonneg (by linarith)]; linarith [he.1 e], fun _ => ev⟩
    · rename_i hc
      push_cast
      rw [abs_of_nonpos (by linarith)]
      refine ⟨by linarith, fun ht => ?_⟩
      have : ¬f / 2 % 2 = 0 := fun ev => hc (.inr ⟨he.2 (by linarith), ev⟩)
      omega

theorem nearestOf_spec {order : Int → Ordering} {x : ℝ} {n : Nat} {lo : Int}
    (h : ∀ m, lo ≤ m → (order m).Compares (2 * x) m) (hl : lo ≤ 2 * x) (hu : 2 * x < lo + 2 ^ n) :
    IsNearestEven (nearestOf order lo n) x := by
  obtain ⟨a, b, d⟩ := bisect_spec (n := n) h hl
  refine roundHalves_spec b (d.elim id fun e => ?_) ?_
  · have : (bisect (fun m => order m != .lt) n lo : ℝ) + 1 = lo + 2 ^ n := by exact_mod_cast e
    linarith
  · have := h _ a
    cases ho : order (bisect (fun m => order m != .lt) n lo) <;> simp_all [Ordering.Compares, ne_of_lt, ne_of_gt]

theorem exists_nearestEven (x : ℝ) : ∃ n, IsNearestEven n x :=
  ⟨_, roundHalves_spec (f := ⌊2 * x⌋) (exact := decide (2 * x = ⌊2 * x⌋)) (Int.floor_le _) (Int.lt_floor_add_one _)
    (by simp)⟩

theorem isNearestEven_int (n : Int) : IsNearestEven n n := by
  simp [IsNearestEven]

/-- Rounding keeps the order; with `x = x'`, the nearest integer is unique. -/
theorem IsNearestEven.mono {n n' : Int} {x x' : ℝ} (h : IsNearestEven n x) (h' : IsNearestEven n' x') (hx : x ≤ x') :
    n ≤ n' := by
  by_contra hn
  have hr : (n' : ℝ) + 1 ≤ n := by exact_mod_cast not_le.1 hn
  have := abs_le.1 h.1
  have := abs_le.1 h'.1
  have e : x - n = -(1 / 2) := by linarith
  have e' : x' - n' = 1 / 2 := by linarith
  have ev := h.2 (by rw [e]; norm_num)
  have ev' := h'.2 (by rw [e']; norm_num)
  have : n = n' + 1 := by
    have : (n : ℝ) = n' + 1 := by linarith
    exact_mod_cast this
  omega

/-! ### LOGMAP_REF -/

/-- The order of `2 × mn × (mx / mn)^(r / q)` and the integer `m ≥ 0`, for mn > 0 and mx > 0: both sides raised to the
power `q`, with the negative powers brought to the other side. -/
def logOrder (q mn mx : Nat) (r m : Int) : Ordering :=
  cmp (2 ^ q * mn ^ (q - r).toNat * mx ^ r.toNat) (m.toNat ^ q * mn ^ (r - q).toNat * mx ^ (-r).toNat)

/-- `LOGMAP_REF(mn, mx, raw) = sat(RNE(val(mn) × (val(mx)/val(mn))^val(raw) × 2^32))` for mn > 0 and mx > 0 (R77), for a
reading in [0, ONE] or outside (R79, I2 of 93_implementation_defined.md). The exponent raw / 2^32 is reduced first. -/
@[irreducible] def logRef (mn mx raw : FX64) : FX64 :=
  let g := Nat.gcd (2 ^ 32) raw.toInt.natAbs
  sat (nearestOf (logOrder (2 ^ 32 / g) mn.toInt.toNat mx.toInt.toNat (raw.toInt / g)) 0 65)

theorem compares_of_pow_mul {q a b : Nat} {x y c : ℝ} (hq : 0 < q) (hx : 0 ≤ x) (hy : 0 ≤ y) (hc : 0 < c)
    (ha : (a : ℝ) = x ^ q * c) (hb : (b : ℝ) = y ^ q * c) : (cmp a b).Compares x y := by
  have h := cmp_compares a b
  have hlt : a < b ↔ x < y := by
    rw [← Nat.cast_lt (α := ℝ), ha, hb, mul_lt_mul_iff_left₀ hc, pow_lt_pow_iff_left₀ hx hy hq.ne']
  have heq : a = b ↔ x = y := by
    rw [← Nat.cast_inj (R := ℝ), ha, hb, mul_left_inj' hc.ne', pow_left_inj₀ hx hy hq.ne']
  have hgt : b < a ↔ y < x := by
    rw [← Nat.cast_lt (α := ℝ), ha, hb, mul_lt_mul_iff_left₀ hc, pow_lt_pow_iff_left₀ hy hx hq.ne']
  cases ho : cmp a b <;> simp_all [Ordering.Compares]

theorem logOrder_compares {q mn mx : Nat} {r m : Int} (hq : 0 < q) (hn : 0 < mn) (hx : 0 < mx) (hm : 0 ≤ m) :
    (logOrder q mn mx r m).Compares (2 * (mn * (mx / mn : ℝ) ^ (r / q : ℝ))) m := by
  have hn' : (0 : ℝ) < mn := by exact_mod_cast hn
  have hx' : (0 : ℝ) < mx := by exact_mod_cast hx
  have hq' : (q : ℝ) ≠ 0 := by exact_mod_cast hq.ne'
  refine compares_of_pow_mul (c := mn ^ (r - q).toNat * mx ^ (-r).toNat) hq (by positivity) (by exact_mod_cast hm)
    (by positivity) ?_ ?_
  · have e : ((mx / mn : ℝ) ^ ((r : ℝ) / q)) ^ q = (mx / mn) ^ r := by
      rw [← Real.rpow_natCast, ← Real.rpow_mul (by positivity), div_mul_cancel₀ _ hq', Real.rpow_intCast]
    have en : ((q - r).toNat : Int) = q - r + ((r - q).toNat : Int) := by omega
    have ex : (r.toNat : Int) = r + ((-r).toNat : Int) := by omega
    push_cast
    rw [mul_pow, mul_pow, e, div_zpow, ← zpow_natCast (mn : ℝ) (r - q).toNat, ← zpow_natCast (mn : ℝ) (q - r).toNat,
      ← zpow_natCast (mx : ℝ) (-r).toNat, ← zpow_natCast (mx : ℝ) r.toNat, ← zpow_natCast (mn : ℝ) q, en, ex,
      zpow_add₀ hn'.ne', zpow_add₀ hx'.ne', zpow_sub₀ hn'.ne']
    ring
  · have : ((m.toNat : Nat) : ℝ) = m := by exact_mod_cast Int.toNat_of_nonneg hm
    push_cast
    rw [this]; ring

/-- `logRef` is `sat(RNE(x))` of the real `x` that R77 names, in raw units. -/
theorem logRef_spec {mn mx raw : FX64} (hn : 0 < mn.toInt) (hx : 0 < mx.toInt) :
    ∃ n, IsNearestEven n (mn.toInt * (mx.toInt / mn.toInt : ℝ) ^ (raw.toInt / 2 ^ 32 : ℝ)) ∧
      logRef mn mx raw = sat n := by
  set x : ℝ := mn.toInt * (mx.toInt / mn.toInt : ℝ) ^ (raw.toInt / 2 ^ 32 : ℝ) with hxdef
  unfold logRef
  dsimp only
  set g := Nat.gcd (2 ^ 32) raw.toInt.natAbs
  have hg0 : 0 < g := Nat.gcd_pos_of_pos_left _ (by norm_num)
  obtain ⟨q, hq⟩ : g ∣ 2 ^ 32 := Nat.gcd_dvd_left _ _
  obtain ⟨r, hr⟩ : (g : Int) ∣ raw.toInt := Int.natCast_dvd.2 (Nat.gcd_dvd_right _ _)
  have hq0 : 0 < q := Nat.pos_of_ne_zero fun h => by rw [h] at hq; simp at hq
  rw [show 2 ^ 32 / g = q by rw [hq, Nat.mul_div_cancel_left _ hg0],
    show raw.toInt / g = r by rw [hr, Int.mul_ediv_cancel_left _ (by omega)]]
  have et : (raw.toInt : ℝ) / 2 ^ 32 = r / q := by
    have : (2 : ℝ) ^ 32 = g * q := by exact_mod_cast hq
    rw [this, hr]
    push_cast
    exact mul_div_mul_left _ _ (by exact_mod_cast hg0.ne')
  have en : ((mn.toInt.toNat : Nat) : ℝ) = mn.toInt := by exact_mod_cast Int.toNat_of_nonneg hn.le
  have ex : ((mx.toInt.toNat : Nat) : ℝ) = mx.toInt := by exact_mod_cast Int.toNat_of_nonneg hx.le
  have hc : ∀ m, (0 : Int) ≤ m → (logOrder q mn.toInt.toNat mx.toInt.toNat r m).Compares (2 * x) m := by
    intro m hm
    have := logOrder_compares (r := r) (m := m) hq0 (mn := mn.toInt.toNat) (mx := mx.toInt.toNat) (by omega)
      (by omega) hm
    rwa [en, ex, ← et] at this
  have hnr : (0 : ℝ) < mn.toInt := by exact_mod_cast hn
  have hxr : (0 : ℝ) < mx.toInt := by exact_mod_cast hx
  have h0 : ((0 : Int) : ℝ) ≤ 2 * x := by push_cast; positivity
  by_cases hbig : 2 * x < 2 ^ 65
  · exact ⟨_, nearestOf_spec hc h0 (by simpa using hbig), rfl⟩
  · -- far above the range, both sides saturate
    obtain ⟨n, hn⟩ := exists_nearestEven x
    refine ⟨n, hn, ?_⟩
    have h1 : (2 : ℝ) ^ 63 ≤ n := by
      have := abs_le.1 hn.1
      norm_num at hbig ⊢
      linarith
    have h1 : (2 : Int) ^ 63 ≤ n := by exact_mod_cast h1
    obtain ⟨-, -, d⟩ := bisect_spec (n := 65) hc h0
    have h2 : 2 ^ 63 ≤ nearestOf (logOrder q mn.toInt.toNat mx.toInt.toNat r) 0 65 := by
      unfold nearestOf roundHalves
      dsimp only
      generalize bisect (fun m => logOrder q mn.toInt.toNat mx.toInt.toNat r m != .lt) 65 0 = f at *
      have hf : (2 : Int) ^ 65 ≤ f + 1 := by
        rcases d with d | d
        · have : (2 : ℝ) ^ 65 ≤ f + 1 := by linarith
          exact_mod_cast this
        · rw [d]; norm_num
      split <;> omega
    unfold sat
    congr 1; omega

theorem logRef_eq {mn mx raw v : FX64} (hn : 0 < mn.toInt) (hx : 0 < mx.toInt)
    (hv : mn.toInt * (mx.toInt / mn.toInt : ℝ) ^ (raw.toInt / 2 ^ 32 : ℝ) = v.toInt) : logRef mn mx raw = v := by
  obtain ⟨n, h, e⟩ := logRef_spec (raw := raw) hn hx
  rw [hv] at h
  rw [e, le_antisymm (h.mono (isNearestEven_int _) le_rfl) ((isNearestEven_int _).mono h le_rfl), sat_toInt_self]

/-- LOGMAP_REF has the values that `logCurve` fixes. -/
theorem logCurve_logRef {mn mx raw : FX64} (hn : 0 < mn.toInt) (hx : 0 < mx.toInt) :
    logCurve logRef mn mx raw = logRef mn mx raw := by
  have hnr : (mn.toInt : ℝ) ≠ 0 := by exact_mod_cast hn.ne'
  unfold logCurve
  split
  · subst raw; exact (logRef_eq hn hx (by simp)).symm
  split
  · subst raw
    have : (ONE.toInt : ℝ) = 2 ^ 32 := by rw [show ONE.toInt = 2 ^ 32 by decide]; norm_num
    exact (logRef_eq hn hx (by rw [this, div_self (by norm_num), Real.rpow_one]; field_simp)).symm
  split
  · subst mx; exact (logRef_eq hn hx (by rw [div_self hnr, Real.one_rpow, mul_one])).symm
  · rfl

theorem logRef_monotonic : LogMonotonic logRef := by
  intro mn mx r r' hn hx _ hr _
  have hnr : (0 : ℝ) < mn.toInt := by exact_mod_cast hn
  have hxr : (0 : ℝ) < mx.toInt := by exact_mod_cast hx
  have ht : (r.toInt : ℝ) / 2 ^ 32 ≤ r'.toInt / 2 ^ 32 :=
    div_le_div_of_nonneg_right (by exact_mod_cast hr) (by positivity)
  obtain ⟨n, h, e⟩ := logRef_spec (raw := r) hn hx
  obtain ⟨n', h', e'⟩ := logRef_spec (raw := r') hn hx
  rw [logCurve_logRef hn hx, logCurve_logRef hn hx, e, e']
  constructor <;> intro hle
  · refine sat_mono (h.mono h' (mul_le_mul_of_nonneg_left ?_ hnr.le))
    exact Real.rpow_le_rpow_of_exponent_le ((one_le_div hnr).2 (by exact_mod_cast hle)) ht
  · refine sat_mono (h'.mono h (mul_le_mul_of_nonneg_left ?_ hnr.le))
    exact Real.rpow_le_rpow_of_exponent_ge (by positivity) ((div_le_one hnr).2 (by exact_mod_cast hle.le)) ht

/-! ### SIN_REF -/

/-- The order of `cos(π × a / 2^k)` and `n / 2^e`, for a ≤ 2^k: the angle is doubled, with cos(2φ) = 2 cos²φ − 1 and
cos φ = −cos(π − φ), until it is 0 or π or the signs differ. -/
def cosOrder : Nat → Nat → Int → Nat → Ordering
  | 0, a, n, e => cmp (if a = 0 then 2 ^ e else -2 ^ e) n
  | k + 1, a, n, e =>
    if a = 0 then cmp (2 ^ e) n
    else if a ≤ 2 ^ k then if n < 0 then .gt else cosOrder k a (2 * n ^ 2 - 2 ^ (2 * e)) (2 * e)
    else if 0 < n then .lt else (cosOrder k (2 ^ (k + 1) - a) (2 * n ^ 2 - 2 ^ (2 * e)) (2 * e)).swap

/-- The bits after the point of the quick comparison. -/
abbrev guessBits : Nat := 192

/-- `x / 2^guessBits`, rounded up or down. -/
def rescale (up : Bool) (x : Int) : Int := if up then -(-x / 2 ^ guessBits) else x / 2 ^ guessBits

/-- The comparison of `cosOrder` in rounded arithmetic: rounded up its `.gt` can be trusted, rounded down its `.lt`. -/
def cosGuess (up : Bool) : Nat → Nat → Int → Ordering
  | 0, a, n => cmp (if a = 0 then 2 ^ guessBits else -2 ^ guessBits) n
  | k + 1, a, n =>
    if a ≤ 2 ^ k then if n < 0 then .gt else cosGuess up k a (rescale up (2 * n ^ 2) - 2 ^ guessBits)
    else if 0 < n then .lt
    else (cosGuess (!up) k (2 ^ (k + 1) - a) (rescale (!up) (2 * n ^ 2) - 2 ^ guessBits)).swap

/-- The distance of a phase from the peak of the sine at 2^30, around the circle. -/
def peakDistance (p : Phase) : Nat :=
  if p.toNat ≤ 3 * 2 ^ 30 then (p.toNat - 2 ^ 30) + (2 ^ 30 - p.toNat) else 2 ^ 32 + 2 ^ 30 - p.toNat

/-- The order of `2 × sin(2π × p / 2^32) × 2^32` and the integer `m`. -/
def sinOrder (p : Phase) (m : Int) : Ordering :=
  let a := peakDistance p
  let n := m * 2 ^ (guessBits - 33)
  if cosGuess true 31 a n = .gt then .gt
  else if cosGuess false 31 a n = .lt then .lt
  else cosOrder 31 a m 33

/-- `SIN_REF(p) = RNE(sin(2π × p / 2^32) × 2^32)` (R84). -/
@[irreducible] def sinRef (p : Phase) : FX64 := sat (nearestOf (sinOrder p) (-2 ^ 33) 35)

theorem cos_double (k a : Nat) :
    Real.cos (Real.pi * a / 2 ^ k) = 2 * Real.cos (Real.pi * a / 2 ^ (k + 1)) ^ 2 - 1 := by
  rw [← Real.cos_two_mul, show 2 * (Real.pi * a / 2 ^ (k + 1)) = Real.pi * a / 2 ^ k by rw [pow_succ]; field_simp]

theorem cos_nonneg_of_le {k a : Nat} (h : a ≤ 2 ^ k) : 0 ≤ Real.cos (Real.pi * a / 2 ^ (k + 1)) := by
  have : (a : ℝ) ≤ 2 ^ k := by exact_mod_cast h
  have hp := Real.pi_pos
  apply Real.cos_nonneg_of_neg_pi_div_two_le_of_le
  · have : 0 ≤ Real.pi * a / 2 ^ (k + 1) := by positivity
    linarith
  · rw [pow_succ, div_le_div_iff₀ (by positivity) (by norm_num)]; nlinarith

theorem cos_reflect {k a : Nat} (h : a ≤ 2 ^ k) :
    Real.cos (Real.pi * a / 2 ^ k) = -Real.cos (Real.pi * (2 ^ k - a : Nat) / 2 ^ k) := by
  have e : Real.pi * ((2 ^ k - a : Nat) : ℝ) / 2 ^ k = Real.pi - Real.pi * a / 2 ^ k := by
    rw [Nat.cast_sub h]; push_cast; field_simp
  rw [e, Real.cos_pi_sub, neg_neg]

theorem compares_of_double {x y : ℝ} {o : Ordering} (hx : 0 ≤ x) (hy : 0 ≤ y)
    (h : o.Compares (2 * x ^ 2 - 1) (2 * y ^ 2 - 1)) : o.Compares x y := by
  cases o <;> simp only [Ordering.Compares] at *
  · exact lt_of_pow_lt_pow_left₀ 2 hy (by linarith)
  · exact (pow_left_inj₀ hx hy two_ne_zero).1 (by linarith)
  · exact lt_of_pow_lt_pow_left₀ 2 hx (by linarith)

theorem cmp_scaled (e : Nat) (c n : Int) {x : ℝ} (hx : (c : ℝ) = x * 2 ^ e) : (cmp c n).Compares x (n / 2 ^ e) := by
  have h := cmp_compares c n
  have hp : (0 : ℝ) < 2 ^ e := by positivity
  cases ho : cmp c n <;> rw [ho] at h <;> simp only [Ordering.Compares] at *
  · rw [lt_div_iff₀ hp, ← hx]; exact_mod_cast h
  · rw [eq_div_iff hp.ne', ← hx]; exact_mod_cast h
  · rw [gt_iff_lt, div_lt_iff₀ hp, ← hx]; exact_mod_cast h

theorem cmp_cos_zero (a : Nat) (n : Int) (e : Nat) (h : a ≤ 2 ^ 0) :
    (cmp (if a = 0 then 2 ^ e else -2 ^ e) n).Compares (Real.cos (Real.pi * a / 2 ^ 0)) (n / 2 ^ e) := by
  apply cmp_scaled
  have : a = 0 ∨ a = 1 := by simp at h; omega
  rcases this with rfl | rfl <;> simp

theorem div_pow_nonneg {n : Int} (e : Nat) (h : ¬n < 0) : 0 ≤ (n : ℝ) / 2 ^ e :=
  div_nonneg (by exact_mod_cast not_lt.1 h) (by positivity)

theorem div_pow_pos {n : Int} (e : Nat) (h : 0 < n) : 0 < (n : ℝ) / 2 ^ e :=
  div_pos (by exact_mod_cast h) (by positivity)

theorem div_pow_neg {n : Int} (e : Nat) (h : n < 0) : (n : ℝ) / 2 ^ e < 0 :=
  div_neg_of_neg_of_pos (by exact_mod_cast h) (by positivity)

theorem double_scaled (n : Int) (e : Nat) :
    ((2 * n ^ 2 - 2 ^ (2 * e) : Int) : ℝ) / 2 ^ (2 * e) = 2 * ((n : ℝ) / 2 ^ e) ^ 2 - 1 := by
  push_cast; rw [pow_mul']; field_simp

theorem cosOrder_compares : ∀ {k a : Nat} {n : Int} {e : Nat}, a ≤ 2 ^ k →
    (cosOrder k a n e).Compares (Real.cos (Real.pi * a / 2 ^ k)) (n / 2 ^ e)
  | 0, a, n, e, h => cmp_cos_zero a n e h
  | k + 1, a, n, e, h => by
    unfold cosOrder
    split
    · subst a; exact cmp_scaled _ _ _ (by simp)
    split
    · rename_i ha
      have hc := cos_nonneg_of_le ha
      split
      · exact (div_pow_neg e ‹_›).trans_le hc
      · apply compares_of_double hc (div_pow_nonneg e ‹_›)
        rw [← cos_double, ← double_scaled]
        exact cosOrder_compares ha
    · have hb : 2 ^ (k + 1) - a ≤ 2 ^ k := by rw [pow_succ]; omega
      have hc := cos_nonneg_of_le hb
      rw [cos_reflect h]
      split
      · exact (neg_nonpos.2 hc).trans_lt (div_pow_pos e ‹_›)
      · rename_i hn
        have hd : 0 ≤ -((n : ℝ) / 2 ^ e) := by
          rw [← neg_div]; exact_mod_cast div_pow_nonneg (n := -n) e (by omega)
        have := compares_of_double hc hd (o := cosOrder k (2 ^ (k + 1) - a) (2 * n ^ 2 - 2 ^ (2 * e)) (2 * e)) (by
          rw [← cos_double, neg_sq, ← double_scaled]
          exact cosOrder_compares hb)
        rw [Ordering.compares_swap]
        revert this
        cases cosOrder k (2 ^ (k + 1) - a) (2 * n ^ 2 - 2 ^ (2 * e)) (2 * e) <;> simp only [Ordering.Compares] <;>
          intro h <;> linarith

theorem rescale_up (n : Int) :
    2 * ((n : ℝ) / 2 ^ guessBits) ^ 2 - 1 ≤
      ((rescale true (2 * n ^ 2) - 2 ^ guessBits : Int) : ℝ) / 2 ^ guessBits := by
  have h : -(2 * n ^ 2) / 2 ^ guessBits * 2 ^ guessBits ≤ -(2 * n ^ 2) := Int.ediv_mul_le _ (by positivity)
  have hr : ((-(2 * n ^ 2) / 2 ^ guessBits : Int) : ℝ) * 2 ^ guessBits ≤ -(2 * n ^ 2) := by exact_mod_cast h
  have hp : (0 : ℝ) < 2 ^ guessBits := by positivity
  have e : (2 * ((n : ℝ) / 2 ^ guessBits) ^ 2 - 1) * 2 ^ guessBits = 2 * n ^ 2 / 2 ^ guessBits - 2 ^ guessBits := by
    field_simp
  have : 2 * (n : ℝ) ^ 2 / 2 ^ guessBits ≤ -((-(2 * n ^ 2) / 2 ^ guessBits : Int) : ℝ) := by
    rw [div_le_iff₀ hp]; linarith
  simp only [rescale, if_true]
  rw [le_div_iff₀ hp, e]
  push_cast
  linarith

theorem rescale_down (n : Int) :
    ((rescale false (2 * n ^ 2) - 2 ^ guessBits : Int) : ℝ) / 2 ^ guessBits ≤
      2 * ((n : ℝ) / 2 ^ guessBits) ^ 2 - 1 := by
  have h : 2 * n ^ 2 / 2 ^ guessBits * 2 ^ guessBits ≤ 2 * n ^ 2 := Int.ediv_mul_le _ (by positivity)
  have hr : ((2 * n ^ 2 / 2 ^ guessBits : Int) : ℝ) * 2 ^ guessBits ≤ 2 * n ^ 2 := by exact_mod_cast h
  have hp : (0 : ℝ) < 2 ^ guessBits := by positivity
  have e : (2 * ((n : ℝ) / 2 ^ guessBits) ^ 2 - 1) * 2 ^ guessBits = 2 * n ^ 2 / 2 ^ guessBits - 2 ^ guessBits := by
    field_simp
  have : ((2 * n ^ 2 / 2 ^ guessBits : Int) : ℝ) ≤ 2 * (n : ℝ) ^ 2 / 2 ^ guessBits := by
    rw [le_div_iff₀ hp]; linarith
  simp only [rescale, Bool.false_eq_true, if_false]
  rw [div_le_iff₀ hp, e]
  push_cast
  linarith

theorem cosGuess_sound : ∀ {up : Bool} {k a : Nat} {n : Int}, a ≤ 2 ^ k →
    (up = true → cosGuess up k a n = .gt → n / 2 ^ guessBits < Real.cos (Real.pi * a / 2 ^ k)) ∧
    (up = false → cosGuess up k a n = .lt → Real.cos (Real.pi * a / 2 ^ k) < n / 2 ^ guessBits)
  | up, 0, a, n, h => by
    have hc := cmp_cos_zero a n guessBits h
    exact ⟨fun _ h => by rw [show cmp _ n = .gt from h] at hc; exact hc,
      fun _ h => by rw [show cmp _ n = .lt from h] at hc; exact hc⟩
  | up, k + 1, a, n, h => by
    unfold cosGuess
    split
    · rename_i ha
      have hc := cos_nonneg_of_le ha
      split
      · exact ⟨fun _ _ => (div_pow_neg _ ‹_›).trans_le hc, fun _ h => nomatch h⟩
      · have hd := div_pow_nonneg guessBits ‹¬n < 0›
        refine ⟨fun hu h => ?_, fun hu h => ?_⟩ <;> subst hu
        · have := (cosGuess_sound ha).1 rfl h
          rw [cos_double] at this
          exact lt_of_pow_lt_pow_left₀ 2 hc (by linarith [rescale_up n])
        · have := (cosGuess_sound ha).2 rfl h
          rw [cos_double] at this
          exact lt_of_pow_lt_pow_left₀ 2 hd (by linarith [rescale_down n])
    · have hb : 2 ^ (k + 1) - a ≤ 2 ^ k := by rw [pow_succ]; omega
      have hc := cos_nonneg_of_le hb
      rw [cos_reflect h]
      split
      · exact ⟨fun _ h => (nomatch h), fun _ _ => (neg_nonpos.2 hc).trans_lt (div_pow_pos _ ‹_›)⟩
      · rename_i hn
        have hd : 0 ≤ -((n : ℝ) / 2 ^ guessBits) := by
          rw [← neg_div]; exact_mod_cast div_pow_nonneg (n := -n) guessBits (by omega)
        refine ⟨fun hu h => lt_neg.1 ?_, fun hu h => neg_lt.1 ?_⟩ <;> subst hu
        · have := (cosGuess_sound hb).2 rfl (Ordering.swap_inj.1 h)
          rw [cos_double] at this
          have := this.trans_le (rescale_down n)
          exact lt_of_pow_lt_pow_left₀ 2 hd (by rw [neg_sq]; linarith)
        · have := (cosGuess_sound hb).1 rfl (Ordering.swap_inj.1 h)
          rw [cos_double] at this
          have := (rescale_up n).trans_lt this
          exact lt_of_pow_lt_pow_left₀ 2 hc (by rw [neg_sq]; linarith)

theorem cos_peakDistance (p : Phase) :
    Real.cos (Real.pi * peakDistance p / 2 ^ 31) = Real.sin (2 * Real.pi * p.toNat / 2 ^ 32) := by
  have hp := p.isLt
  rw [← Real.cos_pi_div_two_sub]
  unfold peakDistance
  split
  · rcases le_total p.toNat (2 ^ 30) with h | h
    · rw [Nat.sub_eq_zero_of_le h, Nat.zero_add, Nat.cast_sub h]; congr 1; push_cast; ring
    · rw [Nat.sub_eq_zero_of_le h, Nat.add_zero, Nat.cast_sub h, ← Real.cos_neg]; congr 1; push_cast; ring
  · rw [Nat.cast_sub (by omega), ← Real.cos_add_two_pi (Real.pi / 2 - _)]; congr 1; push_cast; ring

theorem sinOrder_compares (p : Phase) (m : Int) :
    (sinOrder p m).Compares (2 * (Real.sin (2 * Real.pi * p.toNat / 2 ^ 32) * 2 ^ 32)) (m : ℝ) := by
  have hb : peakDistance p ≤ 2 ^ 31 := by unfold peakDistance; have := p.isLt; split <;> omega
  have e : ((m * 2 ^ (guessBits - 33) : Int) : ℝ) / 2 ^ guessBits = m / 2 ^ 33 := by push_cast; norm_num; ring
  rw [← cos_peakDistance]
  unfold sinOrder
  dsimp only
  split
  · have := (cosGuess_sound hb).1 rfl ‹_›
    rw [e] at this
    simp only [Ordering.Compares]; linarith
  split
  · have := (cosGuess_sound hb).2 rfl ‹_›
    rw [e] at this
    simp only [Ordering.Compares]; linarith
  · have := cosOrder_compares (n := m) (e := 33) hb
    revert this
    cases cosOrder 31 (peakDistance p) m 33 <;> simp only [Ordering.Compares] <;> intro h <;> linarith

/-- `sinRef` is RNE of the real that R84 names, and lies in [−ONE, ONE]. -/
theorem sinRef_spec (p : Phase) :
    IsNearestEven (sinRef p).toInt (Real.sin (2 * Real.pi * p.toNat / 2 ^ 32) * 2 ^ 32) ∧ SinInRange (sinRef p) := by
  have h1 := Real.neg_one_le_sin (2 * Real.pi * p.toNat / 2 ^ 32)
  have h2 := Real.sin_le_one (2 * Real.pi * p.toNat / 2 ^ 32)
  have h := nearestOf_spec (n := 35) (lo := -2 ^ 33) (fun m _ => sinOrder_compares p m) (by push_cast; linarith)
    (by push_cast; linarith)
  have hlo := (isNearestEven_int (-2 ^ 32)).mono h (by push_cast; linarith)
  have hhi := h.mono (isNearestEven_int (2 ^ 32)) (by push_cast; linarith)
  unfold sinRef SinInRange
  rw [sat_toInt_of_bounds (by omega) (by omega), show ONE.toInt = 2 ^ 32 by decide,
    show (-ONE).toInt = -2 ^ 32 by decide]
  exact ⟨h, hlo, hhi⟩

/-! ### This hardware -/

/-- The kernels of this hardware: SIN_REF and LOGMAP_REF, which R84 and R77 choose for it, and an OPEN filter (R92). -/
def Config.kernels : Kernels where
  sinMid := sinRef
  sinMid_range p := (sinRef_spec p).2
  logMid := logRef
  logMid_monotonic := logRef_monotonic
  svf := Config.svf

/-- The configuration of this hardware: every parameter at the default of R7. -/
abbrev Config.params : Params := { kernels := Config.kernels }

/-! ### The reference instances as predicates on the kernels of any configuration -/

/-- The sine is SIN_REF: `SIN_REF(p) = RNE(sin(2π × p / 2^32) × 2^32)` (R84). -/
def Kernels.IsSinRef (K : Kernels) : Prop :=
  ∀ p : Phase, IsNearestEven (sinCurve K.sinMid p).toInt (Real.sin (2 * Real.pi * p.toNat / 2 ^ 32) * 2 ^ 32)

/-- The logarithmic curve is LOGMAP_REF on legal ranges, for every reading (R77), with val(a) = a / 2^32 (R11). -/
def Kernels.IsLogmapRef (K : Kernels) : Prop :=
  ∀ mn mx raw : FX64, 0 < mn.toInt → 0 < mx.toInt →
    ∃ n : Int,
      IsNearestEven n
        ((mn.toInt : ℝ) / 2 ^ 32 * ((mx.toInt : ℝ) / 2 ^ 32 / ((mn.toInt : ℝ) / 2 ^ 32)) ^ ((raw.toInt : ℝ) / 2 ^ 32)
          * 2 ^ 32) ∧
      logCurve K.logMid mn mx raw = sat n

end Sys2Proof
end

