-- ==== Sys2Proof/Syntax.lean ====
section
/-! DEFINITION. The 15 commands of DSLFO (30_encoding.md R70), one constructor per row of spec/opcode_table.json. -/

namespace Sys2Proof

/-- A command with its operands. FX64 operands never come from the command word: they are read from ARG0 and ARG1
when the command executes (R68). -/
inductive Instr where
  /-- NOP (R129). -/
  | nop
  /-- RESET (R130). -/
  | reset
  /-- PMAP_EVAL s: evaluate ParameterMap slot `slot` (R81). -/
  | pmapEval (slot : Fin Config.nslot)
  /-- OSC_SETFREQ i (R89). -/
  | oscSetFreq (k : OscId)
  /-- OSC_SETAMP i (R90). -/
  | oscSetAmp (k : OscId)
  /-- OSC_PROCESS i (R91). -/
  | oscProcess (k : OscId)
  /-- SVF_SETFREQ (R99). -/
  | svfSetFreq
  /-- SVF_SETMODE m (R100). -/
  | svfSetMode (m : FilterMode)
  /-- SVF_PROCESS (R101). -/
  | svfProcess
  /-- DLY_UPDATE (R111). -/
  | dlyUpdate
  /-- DLY_PROCESS (R112). -/
  | dlyProcess
  /-- CTRL_UPDATE (R120). -/
  | ctrlUpdate
  /-- ENC_APPLY n: `n` is a signed 16-bit increment (R121). -/
  | encApply (n : BitVec 16)
  /-- SAMPLE (R131). -/
  | sample
  /-- BLOCK n: `n` is an unsigned block size, at most BLK_MAX (R132, checked by `Instr.WellFormed`). -/
  | block (n : BitVec 16)
  deriving DecidableEq, Repr

end Sys2Proof
end

