-- ==== Sys2Proof/WellFormed.lean ====
section
/-! DEFINITION. Which commands are legal (30_encoding.md R70). The bounds on a slot, an oscillator number and a mode
bit are in the types of `Instr`; the bound on a block size is checked here. -/

namespace Sys2Proof

/-- The operands are ones the encoding admits under the parameters `P`: a block size is at most BLK_MAX (R68, R70). -/
def Instr.wellFormedFor (P : Params) : Instr → Bool
  | .nop => true
  | .reset => true
  | .pmapEval _ => true
  | .oscSetFreq _ => true
  | .oscSetAmp _ => true
  | .oscProcess _ => true
  | .svfSetFreq => true
  | .svfSetMode _ => true
  | .svfProcess => true
  | .dlyUpdate => true
  | .dlyProcess => true
  | .ctrlUpdate => true
  | .encApply _ => true
  | .sample => true
  | .block n => decide (n.toNat ≤ P.blkMax)

/-- The operands are ones the encoding admits on this hardware. -/
def Instr.wellFormed (i : Instr) : Bool := i.wellFormedFor Config.params

end Sys2Proof
end

