-- ==== Sys2Proof/Decode.lean ====
section
/-! DEFINITION. Decoding a command word (30_encoding.md R66 to R72), total on any word and rejecting by the cause the
spec names, and the encoder. -/

namespace Sys2Proof

/-- The 15 legal opcodes (R70). -/
inductive Opcode where
  | nop
  | reset
  | pmapEval
  | oscSetFreq
  | oscSetAmp
  | oscProcess
  | svfSetFreq
  | svfSetMode
  | svfProcess
  | dlyUpdate
  | dlyProcess
  | ctrlUpdate
  | encApply
  | sample
  | block
  deriving DecidableEq, Repr

/-- The OPC byte of an opcode (R70). -/
def Opcode.byte : Opcode → BitVec 8
  | .nop => 0x00#8
  | .reset => 0x01#8
  | .pmapEval => 0x10#8
  | .oscSetFreq => 0x20#8
  | .oscSetAmp => 0x21#8
  | .oscProcess => 0x22#8
  | .svfSetFreq => 0x30#8
  | .svfSetMode => 0x31#8
  | .svfProcess => 0x32#8
  | .dlyUpdate => 0x40#8
  | .dlyProcess => 0x41#8
  | .ctrlUpdate => 0x50#8
  | .encApply => 0x51#8
  | .sample => 0x60#8
  | .block => 0x61#8

/-- The opcodes in the order of the table of R70. -/
def Opcode.all : List Opcode :=
  [.nop, .reset, .pmapEval, .oscSetFreq, .oscSetAmp, .oscProcess, .svfSetFreq, .svfSetMode, .svfProcess,
   .dlyUpdate, .dlyProcess, .ctrlUpdate, .encApply, .sample, .block]

/-- The opcode whose OPC byte is `b`, if `b` is one of the 15 legal values; the other 241 are reserved (R72). -/
def Opcode.ofByte (b : BitVec 8) : Option Opcode :=
  Opcode.all.find? fun op => op.byte == b

/-- The fields of a command word (R66). -/
structure Fields where
  opc : BitVec 8
  sel : BitVec 4
  rsv : BitVec 4
  imm : BitVec 16
  deriving DecidableEq, Repr

/-- OPC = w[31:24], SEL = w[23:20], RSV = w[19:16], IMM = w[15:0] (R66). -/
def fieldsOf (w : Word) : Fields where
  opc := w.extractLsb' 24 8
  sel := w.extractLsb' 20 4
  rsv := w.extractLsb' 16 4
  imm := w.extractLsb' 0 16

/-- The command word with the given fields (R66). -/
def Fields.pack (f : Fields) : Word :=
  f.opc ++ f.sel ++ f.rsv ++ f.imm

/-- The largest SEL value each opcode admits (R70, R71). -/
def Opcode.maxSel : Opcode → Nat
  | .pmapEval => 5
  | .oscSetFreq => 1
  | .oscSetAmp => 1
  | .oscProcess => 1
  | .nop => 0
  | .reset => 0
  | .svfSetFreq => 0
  | .svfSetMode => 0
  | .svfProcess => 0
  | .dlyUpdate => 0
  | .dlyProcess => 0
  | .ctrlUpdate => 0
  | .encApply => 0
  | .sample => 0
  | .block => 0

/-- The opcodes whose IMM field is an operand (R71). -/
def Opcode.usesImm (op : Opcode) : Bool :=
  op = .svfSetMode ∨ op = .encApply ∨ op = .block

/-- The oscillator a SEL value names: 0 = OSC, 1 = LFO (R66). -/
def oscOfSel (sel : BitVec 4) : OscId :=
  if sel = 0 then .osc else .lfo

/-- The filter mode of bit 0 of IMM: 0 = LOWPASS, 1 = HIGHPASS (R68). -/
def modeOfImm (imm : BitVec 16) : FilterMode :=
  if imm[0] then .highpass else .lowpass

/-- The slot a SEL value names, for the values 0 to 5 that pass the check of R71. -/
def slotOfSel (sel : BitVec 4) : Fin Config.nslot :=
  Fin.ofNat Config.nslot sel.toNat

/-- The command of an opcode with the operands of its fields (R68). -/
def Opcode.toInstr (op : Opcode) (sel : BitVec 4) (imm : BitVec 16) : Instr :=
  match op with
  | .nop => .nop
  | .reset => .reset
  | .pmapEval => .pmapEval (slotOfSel sel)
  | .oscSetFreq => .oscSetFreq (oscOfSel sel)
  | .oscSetAmp => .oscSetAmp (oscOfSel sel)
  | .oscProcess => .oscProcess (oscOfSel sel)
  | .svfSetFreq => .svfSetFreq
  | .svfSetMode => .svfSetMode (modeOfImm imm)
  | .svfProcess => .svfProcess
  | .dlyUpdate => .dlyUpdate
  | .dlyProcess => .dlyProcess
  | .ctrlUpdate => .ctrlUpdate
  | .encApply => .encApply imm
  | .sample => .sample
  | .block => .block imm

/-- `decode(w)` under the parameters `P`: the checks in the order of R71, the first that fails being the one reported. -/
def decodeFor (P : Params) (w : Word) : Except CmdError Instr :=
  let f := fieldsOf w
  match Opcode.ofByte f.opc with
  | none => .error .badOpc
  | some op =>
    if f.rsv ≠ 0 then .error .badRsv
    else if op.maxSel < f.sel.toNat then .error .badSel
    else if op = .svfSetMode ∧ f.imm.extractLsb' 1 15 ≠ 0 then .error .badImm
    else if op = .block ∧ P.blkMax < f.imm.toNat then .error .badSize
    else if op.usesImm = false ∧ f.imm ≠ 0 then .error .badImm
    else .ok (op.toInstr f.sel f.imm)

/-- `decode(w)` on this hardware. -/
def decode (w : Word) : Except CmdError Instr := decodeFor Config.params w

/-- The SEL value of an oscillator (R66). -/
def selOfOsc : OscId → BitVec 4
  | .osc => 0
  | .lfo => 1

/-- The IMM value of a filter mode (R68). -/
def immOfMode : FilterMode → BitVec 16
  | .lowpass => 0
  | .highpass => 1

/-- The field values that select each command (R70). -/
def Instr.fields : Instr → Fields
  | .nop => ⟨Opcode.nop.byte, 0, 0, 0⟩
  | .reset => ⟨Opcode.reset.byte, 0, 0, 0⟩
  | .pmapEval s => ⟨Opcode.pmapEval.byte, BitVec.ofNat 4 s.val, 0, 0⟩
  | .oscSetFreq k => ⟨Opcode.oscSetFreq.byte, selOfOsc k, 0, 0⟩
  | .oscSetAmp k => ⟨Opcode.oscSetAmp.byte, selOfOsc k, 0, 0⟩
  | .oscProcess k => ⟨Opcode.oscProcess.byte, selOfOsc k, 0, 0⟩
  | .svfSetFreq => ⟨Opcode.svfSetFreq.byte, 0, 0, 0⟩
  | .svfSetMode m => ⟨Opcode.svfSetMode.byte, 0, 0, immOfMode m⟩
  | .svfProcess => ⟨Opcode.svfProcess.byte, 0, 0, 0⟩
  | .dlyUpdate => ⟨Opcode.dlyUpdate.byte, 0, 0, 0⟩
  | .dlyProcess => ⟨Opcode.dlyProcess.byte, 0, 0, 0⟩
  | .ctrlUpdate => ⟨Opcode.ctrlUpdate.byte, 0, 0, 0⟩
  | .encApply n => ⟨Opcode.encApply.byte, 0, 0, n⟩
  | .sample => ⟨Opcode.sample.byte, 0, 0, 0⟩
  | .block n => ⟨Opcode.block.byte, 0, 0, n⟩

/-- The command word of a well-formed command (R70). -/
def encode (i : Instr) : Word :=
  i.fields.pack

/-- The word whose low `nbits` bits are those of `w`, the rest 0, as the 32-bit command word. -/
def tableWord (nbits w : Nat) : Word :=
  BitVec.ofNat 32 (w % 2 ^ nbits)

/-- The command that `decode` reads from a word given as spec/opcode_table.json numbers its bits. A command is one
32-bit word, written to COMMAND whole (R66, R67). -/
def decodeTableWord (nbits w : Nat) : Option Instr :=
  match decode (tableWord nbits w) with
  | .ok i => some i
  | .error _ => none

end Sys2Proof
end

