-- ==== Sys2Proof/Machine/State.lean ====
section
/-! DEFINITION. The whole state of DSLFO as plain data (10_state.md R23 to R47), and its value after power-on reset. -/

namespace Sys2Proof.Machine

/-- A memory of FX64 entries: its nonzero entries, as (index, value) pairs, indices strictly rising (`Memory.wf`).
An index that is not listed reads 0, the reset contents (R47). The entry is the smallest unit the spec addresses
(R51 to R53), so an element is a whole entry. -/
abbrev Memory := List (Nat × FX64)

/-- The canonical form: indices strictly rising, and no entry equal to what an unlisted index reads as. -/
abbrev Memory.wf (m : Memory) : Prop :=
  m.Pairwise (fun a b => a.1 < b.1) ∧ ∀ e ∈ m, e.2 ≠ 0

/-- The operand registers (R25). -/
structure OperandRegs where
  arg0 : FX64
  arg1 : FX64
  res0 : FX64
  res1 : FX64
  outL : FX64
  outR : FX64
  deriving DecidableEq, Repr

/-- The error bits of STATUS (R35), and ERR_CAUSE and ERR_WORD (R36). A cause of `none` is code 0. -/
structure ErrorRegs where
  cmdErr : Bool
  ovr : Bool
  lockErr : Bool
  cause : Option CmdError
  word : Word
  deriving DecidableEq, Repr

/-- The control frame: CF_SWITCH bits 2:0 (R39), CF_ENC bits 15:0 (R40), CF_KNOB0 to CF_KNOB5 bits 15:0 (R41).
The other bits of these registers are reserved: they read 0 and ignore writes. -/
structure ControlFrame where
  switch : BitVec 3
  enc : BitVec 16
  knobs : Vector (BitVec 16) Config.nslot
  deriving DecidableEq, Repr

/-- A ParameterMap slot's registers SLOTi_MIN, SLOTi_MAX and SLOTi_CURVE (R42). -/
structure Slot where
  min : FX64
  max : FX64
  curve : Curve
  deriving DecidableEq, Repr

/-- The lockable configuration registers `cfg` (R42, R43). -/
structure Configuration where
  slots : Vector Slot Config.nslot
  svfRes : FX64
  svfDrive : FX64
  oscAmp : FX64
  deriving DecidableEq, Repr

/-- `st.osc` or `st.lfo` (R26). -/
structure Oscillator where
  freq : FX64
  amp : FX64
  phase : Phase
  deriving DecidableEq, Repr

/-- `st.svf` (R27). -/
structure Filter where
  fc : FX64
  mode : FilterMode
  s1 : FX64
  s2 : FX64
  deriving DecidableEq, Repr

/-- `st.dly` (R28): the buffer DBUF, the write index `w`, an integer below CAP, and the lengths and gain. -/
structure Delay where
  buf : Memory
  w : Nat
  cur : FX64
  tgt : FX64
  fb : FX64
  deriving DecidableEq, Repr

/-- The control snapshot `st.snap` (R29). -/
structure Snapshot where
  regular : Bool
  lfo : Bool
  lowpass : Bool
  baseFreq : FX64
  volume : FX64
  deriving DecidableEq, Repr

/-- What the outside world does to the machine, one event per host step (R23, R55, R74, R146). -/
inductive HostEvent where
  /-- A bus read of `bytes` bytes at `addr`: `MemRead(addr, bytes)` (R10, R55). -/
  | read (addr : Addr) (bytes : Nat)
  /-- A bus write of `bytes` bytes at `addr`: `MemWrite(addr, bytes, v)` (R10, R55). -/
  | write (addr : Addr) (bytes : Nat) (v : Word)
  /-- `WAIT`: read STATUS until BUSY is 0 (R74). -/
  | wait
  /-- Power-on reset (R146). -/
  | powerOn
  deriving DecidableEq, Repr

/-- The machine's state. The last four fields are the model's own: the free-value counter, what the host does next,
which agent the scheduler picks, and what the host has read (log entries 3, 4 and 5). -/
structure State where
  /-- `st.pend`: IDLE is `none`, PENDING(w) is `some w` (R24). -/
  pend : Option Word
  regs : OperandRegs
  /-- OUTBUF: entry k of channel c is at index 2k + c (R46). -/
  outbuf : Memory
  /-- CTRL.CFG_LOCK (R34). -/
  cfgLock : Bool
  err : ErrorRegs
  cf : ControlFrame
  cfg : Configuration
  osc : Oscillator
  lfo : Oscillator
  svf : Filter
  dly : Delay
  snap : Snapshot
  /-- `st.disp`, segment brightness in UQ16.16 (R30). -/
  disp : Vector Word Config.nseg
  /-- `st.ack`, which STATUS bit 4 shows (R30, R35). -/
  ack : Bool
  /-- `st.viol`, oldest first (R31). -/
  viol : List Violation
  /-- How many free values this run has drawn. -/
  draws : Nat
  /-- The host's coming events, in its program order (R61). -/
  inputs : List HostEvent
  /-- The scheduler's coming picks, one a step, for steps at which both agents are enabled (R123). -/
  sched : List Agent
  /-- What the host's reads returned, newest first. -/
  replies : List (Addr × Word)
  deriving DecidableEq, Repr

/-- Why the machine stops. -/
inductive Fault where
  /-- The host's next event is not a 32-bit access at a 4-byte-aligned address, and no command is pending: the spec
  gives the host no step for it (R55, D12). Raised by `step`; safe: the model stops where hardware might go on. -/
  | hostStuck
  deriving DecidableEq, Repr

/-- Why the model has no meaning for a step. -/
inductive Refusal where
  /-- The command has no meaning in the model. Raised by no arm of `exec`: every command has its meaning; safe. -/
  | notModelled (mnemonic : String)
  deriving DecidableEq, Repr

/-- A slot's configuration after power-on reset: the identity map on [0, 1] (R42). -/
def Slot.powerOn : Slot := ⟨0, ONE, .linear⟩

/-- The configuration after power-on reset (R42, R43). -/
def Configuration.powerOn : Configuration where
  slots := Vector.replicate Config.nslot Slot.powerOn
  svfRes := 0
  svfDrive := 0
  oscAmp := ONE

/-- The control frame after power-on reset (R39 to R41). -/
def ControlFrame.powerOn : ControlFrame := ⟨0, 0, Vector.replicate Config.nslot 0⟩

/-- The machine right after power-on reset: the "power-on reset" column of R47. The model's own fields are empty
(log entries 3, 4 and 5). -/
def State.reset : State where
  pend := none
  regs := ⟨0, 0, 0, 0, 0, 0⟩
  outbuf := []
  cfgLock := false
  err := ⟨false, false, false, none, 0⟩
  cf := ControlFrame.powerOn
  cfg := Configuration.powerOn
  osc := ⟨0, ONE, Config.params.seedOsc⟩
  lfo := ⟨0, 0, Config.params.seedLfo⟩
  svf := ⟨0, .lowpass, 0, 0⟩
  dly := ⟨[], 0, 0, 0, 0⟩
  snap := ⟨false, false, true, 0, Config.params.volReset⟩
  disp := Vector.replicate Config.nseg 0
  ack := false
  viol := []
  draws := 0
  inputs := []
  sched := []
  replies := []

end Sys2Proof.Machine
end

