-- ==== Sys2Proof/Machine/Ops.lean ====
section
/-! DEFINITION. The shared operations over memory and registers: entry reads and writes (R52), the violation record
(R135), draws (R10), recording a command error (R134), and the writes of component state. -/

namespace Sys2Proof.Machine

/-- Entry `i` of a memory; an unlisted entry reads 0 (R47, R52). -/
def Memory.read : Memory → Nat → FX64
  | [], _ => 0
  | e :: t, i => if e.1 = i then e.2 else Memory.read t i

/-- Replace entry `i` by `v`, keeping the canonical form (R52). -/
def Memory.write : Memory → Nat → FX64 → Memory
  | [], i, v => if v = 0 then [] else [(i, v)]
  | e :: t, i, v =>
    if e.1 < i then e :: Memory.write t i v
    else if e.1 = i then (if v = 0 then t else (i, v) :: t)
    else (if v = 0 then e :: t else (i, v) :: e :: t)

namespace State

/-- `violate(V)`: append V to st.viol and change nothing else (R135). -/
def violate (v : Violation) (s : State) : State :=
  { s with viol := s.viol ++ [v] }

/-- `if not ok: violate(V)`. -/
def require (ok : Bool) (v : Violation) (s : State) : State :=
  if ok then s else s.violate v

/-- `draw()`: a free FX64 value, a fresh one each time (R10). -/
def drawValue (s : State) : State × FX64 :=
  ({ s with draws := s.draws + 1 }, Config.draw s.draws)

/-- `RecordCmdError(reason, w)`: the first error since CMD_ERR was last 0 is kept. The word has no other effect, and
the engine goes on with the next command: DSLFO has no trap, so nothing is saved and there is no return (R134, R139). -/
def recordCmdError (reason : CmdError) (w : Word) (s : State) : State :=
  let err := if s.err.cmdErr = false then { s.err with cause := some reason, word := w } else s.err
  { s with err := { err with cmdErr := true } }

/-- STATUS.BUSY = 1 (R24, R35). -/
def busy (s : State) : Bool := s.pend.isSome

/-- `reg[RES0] <- v`. -/
def setRes0 (v : FX64) (s : State) : State := { s with regs := { s.regs with res0 := v } }

/-- `reg[RES1] <- v`. -/
def setRes1 (v : FX64) (s : State) : State := { s with regs := { s.regs with res1 := v } }

/-- `reg[OUT_L] <- y; reg[OUT_R] <- y`: both channels carry the same value (R21, R25). -/
def setOut (y : FX64) (s : State) : State := { s with regs := { s.regs with outL := y, outR := y } }

/-- `OUTBUF[k][c]` (R46). -/
def readOutbuf (s : State) (k c : Nat) : FX64 := s.outbuf.read (Config.nch * k + c)

/-- `OUTBUF[k][0] <- y; OUTBUF[k][1] <- y` (R132). -/
def writeOutbuf (k : Nat) (y : FX64) (s : State) : State :=
  { s with outbuf := (s.outbuf.write (Config.nch * k) y).write (Config.nch * k + 1) y }

/-- The state of an oscillator unit (R82). -/
def oscillator (s : State) : OscId → Oscillator
  | .osc => s.osc
  | .lfo => s.lfo

/-- Replace the state of one oscillator unit (R82). -/
def setOscillator (k : OscId) (o : Oscillator) (s : State) : State :=
  match k with
  | .osc => { s with osc := o }
  | .lfo => { s with lfo := o }

/-- `DBUF[i]` for an integer index, reduced modulo CAP as its caller must (R52, R104). -/
def readDbuf (P : Params) (s : State) (i : Int) : FX64 := s.dly.buf.read (i % P.cap).toNat

end State

end Sys2Proof.Machine
end

