-- ==== Sys2Proof/Machine/Operands.lean ====
section
/-! DEFINITION. The operand forms of the commands (30_encoding.md R68, R69; 44_control.md R113, R115). -/

namespace Sys2Proof.Machine

namespace State

/-- `reg[ARG0]`, whole (R54, R68). -/
def arg0 (s : State) : FX64 := s.regs.arg0

/-- `reg[ARG1]`, whole (R54, R68). -/
def arg1 (s : State) : FX64 := s.regs.arg1

/-- `knob(i)`: knob i's reading as an FX64 value (R113). -/
def knob (s : State) (i : Fin Config.nslot) : FX64 := widenReading s.cf.knobs[i]

/-- The encoder increment of a control update, `sext_32(reg[CF_ENC][15:0])` (R115). -/
def encIncrement (s : State) : Int := s.cf.enc.toInt

/-- `cfg.slot[i]` (R42). -/
def slot (s : State) (i : Fin Config.nslot) : Slot := s.cfg.slots[i]

end State

/-- The increment of ENC_APPLY, `sext_32(w[15:0])` (R68). -/
def immIncrement (n : BitVec 16) : Int := n.toInt

/-- The size of BLOCK, `zext_32(w[15:0])` (R68). -/
def immSize (n : BitVec 16) : Nat := n.toNat

end Sys2Proof.Machine
end

