-- ==== Sys2Proof/Machine/OscLfo.lean ====
section
/-! DEFINITION. Oscillator and LFO (41_oscillator_lfo.md). -/

namespace Sys2Proof.Machine

/-- `wave(shape, p, a)` (R85). -/
def wave (K : Kernels) : Waveform → Phase → FX64 → FX64
  | .square, p, a => if p.toNat < 2 ^ 31 then a else fneg a
  | .sine, p, a => fmul (sinCurve K.sinMid p) a

/-- A frequency is above 0 and below SR/2 (R86, R95). -/
def inBand (P : Params) (f : FX64) : Bool := decide (0 < f.toInt ∧ f.toInt < P.nyq)

/-- `OscProcess(k)`: the sample comes from the phase before the call, and the phase then advances (R86). -/
def oscProcess (P : Params) (k : OscId) (s : State) : State × FX64 :=
  let o := s.oscillator k
  let s := s.require (inBand P o.freq) .freqRange
  (s.setOscillator k { o with phase := phadv P o.phase o.freq }, wave P.kernels (Config.waveform k) o.phase o.amp)

/-- `OscSetFreq(k, f)` (R87). -/
def oscSetFreq (k : OscId) (f : FX64) (s : State) : State :=
  s.setOscillator k { s.oscillator k with freq := f }

/-- `OscSetAmp(k, a)` (R87). -/
def oscSetAmp (k : OscId) (a : FX64) (s : State) : State :=
  s.setOscillator k { s.oscillator k with amp := a }

/-- The meaning of OSC_SETFREQ (R89). -/
def execOscSetFreq (k : OscId) (s : State) : Host.Outcome State Fault Refusal :=
  .next (oscSetFreq k s.arg0 s)

/-- The meaning of OSC_SETAMP (R90). -/
def execOscSetAmp (k : OscId) (s : State) : Host.Outcome State Fault Refusal :=
  .next (oscSetAmp k s.arg0 s)

/-- OSC_PROCESS i: `reg[RES0] <- OscProcess(i)` (R91). -/
def oscProcessCmd (P : Params) (k : OscId) (s : State) : State :=
  let r := oscProcess P k s
  r.1.setRes0 r.2

/-- The meaning of OSC_PROCESS (R91). -/
def execOscProcess (k : OscId) (s : State) : Host.Outcome State Fault Refusal :=
  .next (oscProcessCmd Config.params k s)

end Sys2Proof.Machine
end

