-- ==== Sys2Proof/Machine/Svf.lean ====
section
/-! DEFINITION. The state-variable filter (42_filter.md). -/

namespace Sys2Proof.Machine

/-- `SVF_ID`, the no-op filter, for tests only (R93). -/
def svfId (_fc _res _drive s1 s2 x : FX64) : SvfOut := ⟨s1, s2, x, x⟩

/-- `FilterProcess(x)`: one filter sample, as the state after it, the selected tap and the other (R95). -/
def filterProcess (P : Params) (x : FX64) (s : State) : State × FX64 × FX64 :=
  let s := s.require (inBand P s.svf.fc) .fcRange
  let r := P.kernels.svf s.svf.fc s.cfg.svfRes s.cfg.svfDrive s.svf.s1 s.svf.s2 x
  let t := { s with svf := { s.svf with s1 := r.s1, s2 := r.s2 } }
  match s.svf.mode with
  | .lowpass => (t, r.lo, r.hi)
  | .highpass => (t, r.hi, r.lo)

/-- `FilterSetMode(m)` (R96). -/
def filterSetMode (m : FilterMode) (s : State) : State :=
  { s with svf := { s.svf with mode := m } }

/-- `FilterSetFreq(f)` (R97). -/
def filterSetFreq (f : FX64) (s : State) : State :=
  { s with svf := { s.svf with fc := f } }

/-- The meaning of SVF_SETFREQ (R99). -/
def execSvfSetFreq (s : State) : Host.Outcome State Fault Refusal :=
  .next (filterSetFreq s.arg0 s)

/-- The meaning of SVF_SETMODE (R100). -/
def execSvfSetMode (m : FilterMode) (s : State) : Host.Outcome State Fault Refusal :=
  .next (filterSetMode m s)

/-- SVF_PROCESS: `(reg[RES0], reg[RES1]) <- FilterProcess(reg[ARG0])` (R101). -/
def svfProcessCmd (P : Params) (s : State) : State :=
  let r := filterProcess P s.arg0 s
  (r.1.setRes0 r.2.1).setRes1 r.2.2

/-- The meaning of SVF_PROCESS (R101). -/
def execSvfProcess (s : State) : Host.Outcome State Fault Refusal :=
  .next (svfProcessCmd Config.params s)

end Sys2Proof.Machine
end

