-- ==== Sys2Proof/Machine/DelayLine.lean ====
section
/-! DEFINITION. The delay line (43_delay.md). -/

namespace Sys2Proof.Machine

/-- A delay length is at least 0 and below fint(CAP) (R102, R104). -/
def delayInRange (P : Params) (d : FX64) : Bool := decide (0 ≤ d.toInt ∧ d.toInt < (fint P.cap).toInt)

/-- A feedback gain is at least 0 and at most ONE (R102). -/
def gainInRange (g : FX64) : Bool := decide (0 ≤ g.toInt ∧ g.toInt ≤ ONE.toInt)

/-- `DelayUpdate(target, g)` (R102). -/
def delayUpdate (P : Params) (target g : FX64) (s : State) : State :=
  let s := (s.require (delayInRange P target) .dlenRange).require (gainInRange g) .fbRange
  { s with dly := { s.dly with tgt := target, fb := g } }

/-- One smoothing step of a length `cur` toward `tgt` (R103). -/
def smooth (P : Params) (cur tgt : FX64) : FX64 :=
  fadd cur (fmul (fsub tgt cur) P.smoothRate)

/-- Step 1, smoothing (R103). -/
def delaySmooth (P : Params) (s : State) : State :=
  { s with dly := { s.dly with cur := smooth P s.dly.cur s.dly.tgt } }

/-- The interpolated read of the buffer, `cur` samples behind the write index (R104). -/
def delayTap (P : Params) (s : State) : FX64 :=
  let i := ffloor s.dly.cur
  let f : FX64 := (ffrac s.dly.cur).zeroExtend 64
  let a := s.readDbuf P (s.dly.w - i)
  let b := s.readDbuf P (s.dly.w - i - 1)
  fadd a (fmul f (fsub b a))

/-- `DelayRead()`, steps 2 and 3 (R104). -/
def delayRead (P : Params) (s : State) : State × FX64 :=
  (s.require (delayInRange P s.dly.cur) .dlenRange, delayTap P s)

/-- Step 4, write: `DBUF[w] <- fb × fr + in`, then advance the write index (R106). -/
def delayWrite (P : Params) (fr inp : FX64) (s : State) : State :=
  { s with dly := { s.dly with
      buf := s.dly.buf.write s.dly.w (fadd (fmul s.dly.fb fr) inp)
      w := (s.dly.w + 1) % P.cap } }

/-- Step 5, the dry/wet mix (R107). -/
def delayMix (fb fr inp : FX64) : FX64 :=
  fadd (fmul fb fr) (fmul (fsub ONE fb) inp)

/-- `DelayProcess(in)`: the five steps in order, as the state after them, `out` and `fr` (R108). -/
def delayProcess (P : Params) (inp : FX64) (s : State) : State × FX64 × FX64 :=
  let s := delaySmooth P s
  let r := delayRead P s
  let f := filterProcess P r.2 r.1
  let fr := f.2.1
  let s := delayWrite P fr inp f.1
  (s, delayMix s.dly.fb fr inp, fr)

/-- The meaning of DLY_UPDATE (R111). -/
def execDlyUpdate (s : State) : Host.Outcome State Fault Refusal :=
  .next (delayUpdate Config.params s.arg0 s.arg1 s)

/-- DLY_PROCESS: `(reg[RES0], reg[RES1]) <- DelayProcess(reg[ARG0])` (R112). -/
def dlyProcessCmd (P : Params) (s : State) : State :=
  let r := delayProcess P s.arg0 s
  (r.1.setRes0 r.2.1).setRes1 r.2.2

/-- The meaning of DLY_PROCESS (R112). -/
def execDlyProcess (s : State) : Host.Outcome State Fault Refusal :=
  .next (dlyProcessCmd Config.params s)

end Sys2Proof.Machine
end

