-- ==== Sys2Proof/Machine/ParameterMap.lean ====
section
/-! DEFINITION. ParameterMap (40_parameter_map.md). -/

namespace Sys2Proof.Machine

/-- `linmap(mn, mx, raw)` (R76). -/
def linmap (mn mx raw : FX64) : FX64 := fadd mn (fmul raw (fsub mx mn))

/-- `logmap(mn, mx, raw)`: LOGMAP on a legal range, a draw with V_LOG_CFG on an illegal one (R78). -/
def logmap (K : Kernels) (mn mx raw : FX64) (s : State) : State × FX64 :=
  if mn.toInt ≤ 0 ∨ mx.toInt ≤ 0 then (s.violate .logCfg).drawValue
  else (s, logCurve K.logMid mn mx raw)

/-- A reading is at least 0 and at most ONE (R79). -/
def readingInRange (raw : FX64) : Bool := decide (0 ≤ raw.toInt ∧ raw.toInt ≤ ONE.toInt)

/-- `pmap(i, raw)` (R79). -/
def pmap (K : Kernels) (i : Fin Config.nslot) (raw : FX64) (s : State) : State × FX64 :=
  let c := s.slot i
  let s := s.require (readingInRange raw) .rawRange
  match c.curve with
  | .linear => (s, linmap c.min c.max raw)
  | .logarithmic => logmap K c.min c.max raw s

/-- PMAP_EVAL s: `reg[RES0] <- pmap(s, reg[ARG0])` (R81). -/
def pmapEval (K : Kernels) (i : Fin Config.nslot) (s : State) : State :=
  let r := pmap K i s.arg0 s
  r.1.setRes0 r.2

/-- The meaning of PMAP_EVAL (R81). -/
def execPmapEval (i : Fin Config.nslot) (s : State) : Host.Outcome State Fault Refusal :=
  .next (pmapEval Config.kernels i s)

end Sys2Proof.Machine
end

