-- ==== Sys2Proof/Machine/Control.lean ====
section
/-! DEFINITION. The control update, the volume trim and the display mapping (44_control.md). -/

namespace Sys2Proof.Machine

/-- The brightness of segment `k` for `whole` full segments and the fraction `frac` (R117). -/
def segmentLevel (whole : Int) (frac : BitVec 32) (k : Nat) : Word :=
  if (k : Int) < whole then 0x00010000#32
  else if (k : Int) = whole then frac >>> 16
  else 0

/-- `Display(v)` (R117). -/
def display (v : FX64) : Vector Word Config.nseg :=
  let v8 := fmul v (fint 8)
  Vector.ofFn fun k => segmentLevel (ffloor v8) (ffrac v8) k

/-- The volume after an increment (R116). -/
def volumeAfter (P : Params) (inc : Int) (volume : FX64) : FX64 :=
  fclamp (fadd volume (fmul P.volStep (fint inc))) 0 ONE

/-- `VolumeStep(inc)` (R116). -/
def volumeStep (P : Params) (inc : Int) (s : State) : State :=
  let v := volumeAfter P inc s.snap.volume
  { s with
    snap := { s.snap with volume := v }
    ack := decide (inc = 1)
    disp := display v }

/-- Step 2: the flags and the filter mode from CF_SWITCH (R118). -/
def deriveFlags (s : State) : State :=
  let sw := s.cf.switch
  filterSetMode (if sw[2] then .lowpass else .highpass)
    { s with snap := { s.snap with regular := sw[0], lfo := sw[1], lowpass := sw[2] } }

/-- The value slot i maps knob i's reading to (R113, R114). -/
def mapKnob (K : Kernels) (i : Fin Config.nslot) (s : State) : State × FX64 :=
  pmap K i (s.knob i) s

/-- Step 3: map the six knobs, in order, and push the results (R114, R118). -/
def pushParameters (P : Params) (s : State) : State :=
  let p0 := mapKnob P.kernels 0 s
  let p1 := mapKnob P.kernels 1 p0.1
  let p2 := mapKnob P.kernels 2 p1.1
  let p3 := mapKnob P.kernels 3 p2.1
  let p4 := mapKnob P.kernels 4 p3.1
  let p5 := mapKnob P.kernels 5 p4.1
  let s := oscSetFreq .lfo p0.2 p5.1
  let s := oscSetAmp .lfo p1.2 s
  let s := { s with snap := { s.snap with baseFreq := p2.2 } }
  let s := delayUpdate P p3.2 p4.2 s
  filterSetFreq p5.2 s

/-- Step 4: the volume trim, which clears CF_ENC (R115, R118). -/
def trimVolume (P : Params) (s : State) : State :=
  volumeStep P s.encIncrement { s with cf := { s.cf with enc := 0 } }

/-- `CtrlUpdate()` (R118). -/
def ctrlUpdate (P : Params) (s : State) : State :=
  trimVolume P (pushParameters P (deriveFlags s))

/-- The meaning of CTRL_UPDATE (R120). -/
def execCtrlUpdate (s : State) : Host.Outcome State Fault Refusal :=
  .next (ctrlUpdate Config.params s)

/-- The meaning of ENC_APPLY: `VolumeStep(sext_32(n))` (R121). -/
def execEncApply (n : BitVec 16) (s : State) : Host.Outcome State Fault Refusal :=
  .next (volumeStep Config.params (immIncrement n) s)

end Sys2Proof.Machine
end

