-- ==== Sys2Proof/Machine/Engine.lean ====
section
/-! DEFINITION. The sample tick, the block and the system commands (45_engine.md). -/

namespace Sys2Proof.Machine

/-- `ResetDatapath()` (R130). -/
def resetDatapath (P : Params) (s : State) : State :=
  { s with
    osc := ⟨0, s.cfg.oscAmp, P.seedOsc⟩
    lfo := ⟨0, 0, P.seedLfo⟩
    svf := ⟨0, .lowpass, 0, 0⟩
    dly := ⟨[], 0, 0, 0, 0⟩
    snap := ⟨false, false, true, 0, P.volReset⟩
    ack := false
    disp := display P.volReset
    regs := { s.regs with res0 := 0, res1 := 0, outL := 0, outR := 0 }
    outbuf := []
    err := ⟨false, false, false, none, 0⟩ }

/-- `PowerOnReset()`: st.viol and the model's own fields are not touched (R146, R31). -/
def powerOnReset (P : Params) (s : State) : State :=
  resetDatapath P { s with
    pend := none
    cfgLock := false
    cfg := Configuration.powerOn
    cf := ControlFrame.powerOn
    regs := { s.regs with arg0 := 0, arg1 := 0 } }

/-- Step 1 of the tick: the LFO runs, and its sample counts only in LFO mode (R126). -/
def lfoSample (P : Params) (s : State) : State × FX64 :=
  let r := oscProcess P .lfo s
  (r.1, if r.1.snap.lfo then r.2 else 0)

/-- Steps 2 and 3 of the tick: the oscillator runs at baseFreq + l, and its sample is gated (R126). -/
def oscSample (P : Params) (l : FX64) (s : State) : State × FX64 :=
  let r := oscProcess P .osc (oscSetFreq .osc (fadd s.snap.baseFreq l) s)
  (r.1, if r.1.snap.regular || r.1.snap.lfo then r.2 else 0)

/-- `SampleTick()`, as the state after it, `y` and `d` (R126). -/
def sampleTick (P : Params) (s : State) : State × FX64 × FX64 :=
  let l := lfoSample P s
  let o := oscSample P l.2 l.1
  let r := delayProcess P o.2 o.1
  (r.1, fmul r.2.1 r.1.snap.volume, r.2.1)

/-- Tick k of a block: one sample tick, whose y goes to OUTBUF[k], as the state after it and y (R132). -/
def blockTick (P : Params) (k : Nat) (s : State) : State × FX64 :=
  let t := sampleTick P s
  (t.1.writeOutbuf k t.2.1, t.2.1)

/-- The first `n` ticks of a block, as the state after them and the last tick's y (0 if n = 0) (R132). -/
def runTicks (P : Params) (s : State) : Nat → State × FX64
  | 0 => (s, 0)
  | n + 1 => blockTick P n (runTicks P s n).1

/-- `Block(n)`: one control update, then n ticks (R132). -/
def blockCmd (P : Params) (n : Nat) (s : State) : State :=
  let r := runTicks P (ctrlUpdate P s) n
  if 0 < n then r.1.setOut r.2 else r.1

/-- SAMPLE: one tick, with y in OUT_L, OUT_R and RES0 and d in RES1 (R131). -/
def sampleCmd (P : Params) (s : State) : State :=
  let r := sampleTick P s
  ((r.1.setOut r.2.1).setRes0 r.2.1).setRes1 r.2.2

/-- The meaning of NOP: nothing changes (R129). -/
def execNop (s : State) : Host.Outcome State Fault Refusal :=
  .next s

/-- The meaning of RESET (R130). -/
def execReset (s : State) : Host.Outcome State Fault Refusal :=
  .next (resetDatapath Config.params s)

/-- The meaning of SAMPLE (R131). -/
def execSample (s : State) : Host.Outcome State Fault Refusal :=
  .next (sampleCmd Config.params s)

/-- The meaning of BLOCK (R132). -/
def execBlock (n : BitVec 16) (s : State) : Host.Outcome State Fault Refusal :=
  .next (blockCmd Config.params (immSize n) s)

end Sys2Proof.Machine
end

