-- ==== Sys2Proof/Machine/Dispatch.lean ====
section
/-! DEFINITION. One arm per command of spec/opcode_table.json (30_encoding.md R69, R70). -/

namespace Sys2Proof.Machine

def exec (i : Instr) (s : State) : Host.Outcome State Fault Refusal :=
  match i with
  | .nop => Sys2Proof.Machine.execNop s
  | .reset => Sys2Proof.Machine.execReset s
  | .pmapEval slot => Sys2Proof.Machine.execPmapEval slot s
  | .oscSetFreq k => Sys2Proof.Machine.execOscSetFreq k s
  | .oscSetAmp k => Sys2Proof.Machine.execOscSetAmp k s
  | .oscProcess k => Sys2Proof.Machine.execOscProcess k s
  | .svfSetFreq => Sys2Proof.Machine.execSvfSetFreq s
  | .svfSetMode m => Sys2Proof.Machine.execSvfSetMode m s
  | .svfProcess => Sys2Proof.Machine.execSvfProcess s
  | .dlyUpdate => Sys2Proof.Machine.execDlyUpdate s
  | .dlyProcess => Sys2Proof.Machine.execDlyProcess s
  | .ctrlUpdate => Sys2Proof.Machine.execCtrlUpdate s
  | .encApply n => Sys2Proof.Machine.execEncApply n s
  | .sample => Sys2Proof.Machine.execSample s
  | .block n => Sys2Proof.Machine.execBlock n s

end Sys2Proof.Machine
end

