-- ==== Sys2Proof/Machine/Flags.lean ====
section
/-! DEFINITION. The flag registers: STATUS (R35), CTRL (R34), SNAP (R38) and ERR_CAUSE (R36), as the words the host reads and
the effect of writing them. DSLFO has no arithmetic condition codes (R32). -/

namespace Sys2Proof.Machine

/-- The bit of a one-bit field as a word. -/
def bitWord (b : Bool) : Word := (BitVec.ofBool b).zeroExtend 32

/-- The code of a command error (R134). -/
def causeCode : CmdError → Word
  | .badOpc => 1
  | .badRsv => 2
  | .badSel => 3
  | .badImm => 4
  | .badSize => 5

/-- The bit of a filter mode: 0 = LOWPASS, 1 = HIGHPASS (R27). -/
def modeBit : FilterMode → Bool
  | .lowpass => false
  | .highpass => true

/-- The bit of a curve: 0 = LINEAR, 1 = LOGARITHMIC (R42). -/
def curveBit : Curve → Bool
  | .linear => false
  | .logarithmic => true

/-- The curve of a bit (R42). -/
def curveOfBit (b : Bool) : Curve := if b then .logarithmic else .linear

namespace State

/-- STATUS as the host reads it (R35). -/
def statusWord (s : State) : Word :=
  bitWord s.busy ||| bitWord s.err.cmdErr <<< 1 ||| bitWord s.err.ovr <<< 2 ||| bitWord s.err.lockErr <<< 3
    ||| bitWord s.ack <<< 4

/-- CTRL as the host reads it (R34). -/
def ctrlWord (s : State) : Word := bitWord s.cfgLock

/-- SNAP as the host reads it (R38). -/
def snapWord (s : State) : Word :=
  bitWord s.snap.regular ||| bitWord s.snap.lfo <<< 1 ||| bitWord s.snap.lowpass <<< 2

/-- ERR_CAUSE as the host reads it (R36). -/
def causeWord (s : State) : Word :=
  match s.err.cause with
  | none => 0
  | some c => causeCode c

/-- A host write to STATUS: writing 1 to CMD_ERR, OVR or LOCK_ERR clears it; every other bit is ignored (R35). -/
def writeStatus (v : Word) (s : State) : State :=
  { s with err := { s.err with
      cmdErr := s.err.cmdErr && !v[1]
      ovr := s.err.ovr && !v[2]
      lockErr := s.err.lockErr && !v[3] } }

/-- A host write to CTRL: writing 1 to bit 0 sets CFG_LOCK; writing 0 has no effect (R34). -/
def writeCtrl (v : Word) (s : State) : State :=
  { s with cfgLock := s.cfgLock || v[0] }

/-- Set STATUS.OVR (R122). -/
def setOvr (s : State) : State := { s with err := { s.err with ovr := true } }

/-- Set STATUS.LOCK_ERR (R34). -/
def setLockErr (s : State) : State := { s with err := { s.err with lockErr := true } }

end State

end Sys2Proof.Machine
end

