-- ==== Sys2Proof/Machine/HostRegs.lean ====
section
/-! DEFINITION. The host register space: the register map (10_state.md section 6), what each register reads (R33 to R46) and
what a write to it stores (R34, R35, R39 to R43, R54). -/

namespace Sys2Proof.Machine

/-- The 32-bit registers of the map. -/
inductive Reg32 where
  | id
  | version
  | ctrl
  | status
  | command
  | snap
  | cfSwitch
  | cfEnc
  | cfKnob (i : Fin Config.nslot)
  | errCause
  | errWord
  | slotCurve (i : Fin Config.nslot)
  | oscPhase
  | lfoPhase
  | svfMode
  | dlyWptr
  | dispSeg (k : Fin Config.nseg)
  deriving DecidableEq, Repr

/-- The 64-bit registers of the map, each a LO/HI pair of words (R54). -/
inductive Reg64 where
  | arg0
  | arg1
  | res0
  | res1
  | outL
  | outR
  | slotMin (i : Fin Config.nslot)
  | slotMax (i : Fin Config.nslot)
  | svfRes
  | svfDrive
  | oscAmp
  | volume
  | baseFreq
  | oscFreq
  | oscAmpl
  | lfoFreq
  | lfoAmpl
  | svfFc
  | svfS1
  | svfS2
  | dlyCur
  | dlyTgt
  | dlyFb
  | outbuf (k : Fin Config.outbufRoom) (c : Fin Config.nch)
  deriving DecidableEq, Repr

/-- One 32-bit word of the map: a 32-bit register, or the low or the high word of a 64-bit one. -/
inductive HostReg where
  | word (r : Reg32)
  | lo (r : Reg64)
  | hi (r : Reg64)
  deriving DecidableEq, Repr

/-- The byte address of a 32-bit register. -/
def Reg32.addr : Reg32 → Nat
  | .id => 0x000
  | .version => 0x004
  | .ctrl => 0x008
  | .status => 0x00C
  | .command => 0x010
  | .snap => 0x014
  | .cfSwitch => 0x018
  | .cfEnc => 0x01C
  | .cfKnob i => 0x020 + 4 * i
  | .errCause => 0x038
  | .errWord => 0x03C
  | .slotCurve i => 0x100 + 0x20 * i + 0x10
  | .oscPhase => 0x220
  | .lfoPhase => 0x238
  | .svfMode => 0x248
  | .dlyWptr => 0x278
  | .dispSeg k => 0x280 + 4 * k

/-- The byte address of the low word of a 64-bit register. -/
def Reg64.addr : Reg64 → Nat
  | .arg0 => 0x040
  | .arg1 => 0x048
  | .res0 => 0x050
  | .res1 => 0x058
  | .outL => 0x060
  | .outR => 0x068
  | .slotMin i => 0x100 + 0x20 * i
  | .slotMax i => 0x100 + 0x20 * i + 0x08
  | .svfRes => 0x1C0
  | .svfDrive => 0x1C8
  | .oscAmp => 0x1D0
  | .volume => 0x200
  | .baseFreq => 0x208
  | .oscFreq => 0x210
  | .oscAmpl => 0x218
  | .lfoFreq => 0x228
  | .lfoAmpl => 0x230
  | .svfFc => 0x240
  | .svfS1 => 0x250
  | .svfS2 => 0x258
  | .dlyCur => 0x260
  | .dlyTgt => 0x268
  | .dlyFb => 0x270
  | .outbuf k c => 0x1000 + 16 * k + 8 * c

/-- The byte address of a word of the map. The high word of a 64-bit register is at the next word address (R54). -/
def HostReg.addr : HostReg → Nat
  | .word r => r.addr
  | .lo r => r.addr
  | .hi r => r.addr + 4

/-- The words of the map below OUTBUF. -/
def lowRegs : List HostReg :=
  let slots := List.finRange Config.nslot
  let words : List Reg32 :=
    [.id, .version, .ctrl, .status, .command, .snap, .cfSwitch, .cfEnc] ++ slots.map .cfKnob
      ++ [.errCause, .errWord] ++ slots.map .slotCurve ++ [.oscPhase, .lfoPhase, .svfMode, .dlyWptr]
      ++ (List.finRange Config.nseg).map .dispSeg
  let pairs : List Reg64 :=
    [.arg0, .arg1, .res0, .res1, .outL, .outR] ++ slots.map .slotMin ++ slots.map .slotMax
      ++ [.svfRes, .svfDrive, .oscAmp, .volume, .baseFreq, .oscFreq, .oscAmpl, .lfoFreq, .lfoAmpl, .svfFc, .svfS1,
          .svfS2, .dlyCur, .dlyTgt, .dlyFb]
  words.map .word ++ pairs.map .lo ++ pairs.map .hi

/-- The register word at a byte address, if the map has one there; every other address is reserved or unmapped.
OUTBUF stands from 0x1000 on, for the BLK_MAX samples of a block (R46, R50). -/
def regAt (P : Params) (a : Addr) : Option HostReg :=
  if 0x1000 ≤ a.toNat then
    let n := a.toNat - 0x1000
    let r := Reg64.outbuf (Fin.ofNat Config.outbufRoom (n / 16)) (Fin.ofNat Config.nch (n / 8))
    if P.blkMax ≤ n / 16 then none else if n % 8 = 0 then some (.lo r) else if n % 8 = 4 then some (.hi r) else none
  else lowRegs.find? fun r => r.addr == a.toNat

/-- The unmapped range of R50. -/
def isUnmapped (a : Addr) : Bool :=
  0x0300 ≤ a.toNat && a.toNat ≤ 0x0FFF

/-- The configuration registers, which CFG_LOCK guards (R34, R42, R43). -/
def HostReg.isConfig : HostReg → Bool
  | .word (.slotCurve _) => true
  | .lo (.slotMin _) | .hi (.slotMin _) => true
  | .lo (.slotMax _) | .hi (.slotMax _) => true
  | .lo .svfRes | .hi .svfRes => true
  | .lo .svfDrive | .hi .svfDrive => true
  | .lo .oscAmp | .hi .oscAmp => true
  | _ => false

/-- The operand and control-frame registers the host may write (R25, R39 to R41). -/
def HostReg.isOperand : HostReg → Bool
  | .lo .arg0 | .hi .arg0 => true
  | .lo .arg1 | .hi .arg1 => true
  | .word .cfSwitch => true
  | .word .cfEnc => true
  | .word (.cfKnob _) => true
  | _ => false

/-- The registers whose reads stay defined while BUSY = 1 (R58). -/
def HostReg.readableBusy : HostReg → Bool
  | .word .id => true
  | .word .version => true
  | .word .ctrl => true
  | .word .status => true
  | _ => false

namespace State

/-- What a 32-bit register reads. COMMAND is write-only and reads 0 (R33 to R46). -/
def read32 (s : State) : Reg32 → Word
  | .id => 0x464C5344
  | .version => 0x00070000
  | .ctrl => s.ctrlWord
  | .status => s.statusWord
  | .command => 0
  | .snap => s.snapWord
  | .cfSwitch => s.cf.switch.zeroExtend 32
  | .cfEnc => s.cf.enc.zeroExtend 32
  | .cfKnob i => s.cf.knobs[i].zeroExtend 32
  | .errCause => s.causeWord
  | .errWord => s.err.word
  | .slotCurve i => bitWord (curveBit (s.slot i).curve)
  | .oscPhase => s.osc.phase
  | .lfoPhase => s.lfo.phase
  | .svfMode => bitWord (modeBit s.svf.mode)
  | .dlyWptr => BitVec.ofNat 32 s.dly.w
  | .dispSeg k => s.disp[k]

/-- The value of a 64-bit register (R25, R42 to R44, R46). -/
def read64 (s : State) : Reg64 → FX64
  | .arg0 => s.regs.arg0
  | .arg1 => s.regs.arg1
  | .res0 => s.regs.res0
  | .res1 => s.regs.res1
  | .outL => s.regs.outL
  | .outR => s.regs.outR
  | .slotMin i => (s.slot i).min
  | .slotMax i => (s.slot i).max
  | .svfRes => s.cfg.svfRes
  | .svfDrive => s.cfg.svfDrive
  | .oscAmp => s.cfg.oscAmp
  | .volume => s.snap.volume
  | .baseFreq => s.snap.baseFreq
  | .oscFreq => s.osc.freq
  | .oscAmpl => s.osc.amp
  | .lfoFreq => s.lfo.freq
  | .lfoAmpl => s.lfo.amp
  | .svfFc => s.svf.fc
  | .svfS1 => s.svf.s1
  | .svfS2 => s.svf.s2
  | .dlyCur => s.dly.cur
  | .dlyTgt => s.dly.tgt
  | .dlyFb => s.dly.fb
  | .outbuf k c => s.readOutbuf k c

/-- What a word of the map reads (R54). -/
def readReg (s : State) : HostReg → Word
  | .word r => s.read32 r
  | .lo r => loHalf (s.read64 r)
  | .hi r => hiHalf (s.read64 r)

/-- Replace slot i's registers (R42). -/
def setSlot (i : Fin Config.nslot) (c : Slot) (s : State) : State :=
  { s with cfg := { s.cfg with slots := s.cfg.slots.set i c } }

/-- Store a whole value in a 64-bit register the host may write; the other registers ignore it (R25, R42, R43, R57). -/
def store64 (r : Reg64) (v : FX64) (s : State) : State :=
  match r with
  | .arg0 => { s with regs := { s.regs with arg0 := v } }
  | .arg1 => { s with regs := { s.regs with arg1 := v } }
  | .slotMin i => s.setSlot i { s.slot i with min := v }
  | .slotMax i => s.setSlot i { s.slot i with max := v }
  | .svfRes => { s with cfg := { s.cfg with svfRes := v } }
  | .svfDrive => { s with cfg := { s.cfg with svfDrive := v } }
  | .oscAmp => { s with cfg := { s.cfg with oscAmp := v } }
  | _ => s

/-- Store a word in a control-frame or CURVE register: reserved bits ignore writes (R39 to R42). -/
def store32 (r : Reg32) (v : Word) (s : State) : State :=
  match r with
  | .cfSwitch => { s with cf := { s.cf with switch := v.extractLsb' 0 3 } }
  | .cfEnc => { s with cf := { s.cf with enc := v.extractLsb' 0 16 } }
  | .cfKnob i => { s with cf := { s.cf with knobs := s.cf.knobs.set i (v.extractLsb' 0 16) } }
  | .slotCurve i => s.setSlot i { s.slot i with curve := curveOfBit v[0] }
  | _ => s

/-- Store a word in an operand, control-frame or configuration register. A write to X_LO or X_HI replaces only its
half (R54). -/
def storeReg (r : HostReg) (v : Word) (s : State) : State :=
  match r with
  | .word r => s.store32 r v
  | .lo r => s.store64 r (setLo (s.read64 r) v)
  | .hi r => s.store64 r (setHi (s.read64 r) v)

end State

end Sys2Proof.Machine
end

