-- ==== Sys2Proof/Machine/HostBus.lean ====
section
/-! DEFINITION. The host agent: bus accesses (20_memory.md R55 to R59, 45_engine.md R122), WAIT (R74), power-on reset
(R146), and which agent moves next (R23, R123). -/

namespace Sys2Proof.Machine

/-- The platform address of an offset: every address of the spec is an offset from BASE (R50). -/
def platformAddr (a : Addr) : Nat := Config.base + a.toNat

/-- An event the spec gives the host a step for: a bus access is a 32-bit access at a 4-byte-aligned address (R55). -/
def HostEvent.legal : HostEvent → Bool
  | .read a bytes => bytes == 4 && a.toNat % 4 == 0
  | .write a bytes _ => bytes == 4 && a.toNat % 4 == 0
  | .wait => true
  | .powerOn => true

namespace State

/-- `HostWriteCommand(w)` (R122). -/
def writeCommand (w : Word) (s : State) : State :=
  match s.pend with
  | none => { s with pend := some w }
  | some _ => s.setOvr

/-- A write to an operand, control-frame or configuration register while BUSY = 1 records V_BUSY_WRITE (R59, R135). -/
def noteBusyWrite (s : State) : State :=
  s.require (!s.busy) .busyWrite

/-- A host write of `v` to a word of the map. A locked configuration register ignores it and sets LOCK_ERR (R34); a
read-only register ignores it (R57). -/
def writeReg (r : HostReg) (v : Word) (s : State) : State :=
  if r.isConfig then
    if s.cfgLock then s.noteBusyWrite.setLockErr else s.noteBusyWrite.storeReg r v
  else if r.isOperand then s.noteBusyWrite.storeReg r v
  else if r = .word .ctrl then s.writeCtrl v
  else if r = .word .status then s.writeStatus v
  else if r = .word .command then s.writeCommand v
  else s

/-- A host write at a byte address; reserved and unmapped addresses ignore it (R57). -/
def hostWrite (P : Params) (a : Addr) (v : Word) (s : State) : State :=
  match regAt P a with
  | some r => s.writeReg r v
  | none => s

/-- The read at `a` is a draw: BUSY = 1 and `a` is neither ID, VERSION, CTRL or STATUS nor an unmapped address
(R57, R58; log entry 6). -/
def readsDraw (P : Params) (s : State) (a : Addr) : Bool :=
  s.busy && !isUnmapped a && !(match regAt P a with | some r => r.readableBusy | none => false)

/-- The value the map gives a read: reserved and unmapped addresses read 0 (R57). -/
def mappedWord (P : Params) (s : State) (a : Addr) : Word :=
  match regAt P a with
  | some r => s.readReg r
  | none => 0

/-- Record what a read returned to the host. -/
def reply (a : Addr) (v : Word) (s : State) : State :=
  { s with replies := (a, v) :: s.replies }

/-- A host read at a byte address (R57, R58). -/
def hostRead (P : Params) (a : Addr) (s : State) : State :=
  if s.readsDraw P a then
    { s.reply a (Config.drawWord s.draws) with draws := s.draws + 1 }
  else s.reply a (s.mappedWord P a)

/-- The byte address of STATUS. -/
abbrev statusAddr : Addr := 0x00C#13

/-- The host's program goes on with the event after this one. -/
def nextInput (s : State) : State := { s with inputs := s.inputs.tail }

/-- The host performs a legal event. WAIT reads STATUS and goes on only when it has read BUSY = 0 (R74). -/
def hostAct (P : Params) (e : HostEvent) (s : State) : State :=
  match e with
  | .read a _ => (s.hostRead P a).nextInput
  | .write a _ v => (s.hostWrite P a v).nextInput
  | .wait => if s.busy then s.hostRead P statusAddr else (s.hostRead P statusAddr).nextInput
  | .powerOn => (powerOnReset P s).nextInput

/-- The host agent is enabled: it has an event, and the spec gives the host a step for it. -/
def hostEnabled (s : State) : Bool :=
  match s.inputs with
  | [] => false
  | e :: _ => e.legal

/-- The engine moves at this step: a command is pending, and the host is not enabled or the scheduler does not pick it
(R123; log entry 4). -/
def engineMoves (s : State) : Bool :=
  s.busy && (!s.hostEnabled || s.sched.head? != some .host)

/-- The scheduler's pick for this step is used up. -/
def usePick (s : State) : State := { s with sched := s.sched.tail }

/-- The end of an engine step: `st.pend <- IDLE` (R123), and the pick is used up. -/
def retire (s : State) : State := { s.usePick with pend := none }

end State

end Sys2Proof.Machine
end

