-- ==== Sys2Proof/Machine/Step.lean ====
section
/-! DEFINITION. One step of the machine: the engine executes the pending command whole, or the host performs its next
event (10_state.md R23, 45_engine.md R123). -/

namespace Sys2Proof.Machine

/-- `EngineStep()` for the pending word `w`, on this hardware (R123). -/
def engineStep (w : Word) (s : State) : Host.Outcome State Fault Refusal :=
  match decode w with
  | .error reason => .next (s.recordCmdError reason w).retire
  | .ok i =>
    match exec i s with
    | .next t => .next t.retire
    | .fault r => .fault r
    | .refused r => .refused r

/-- The host's step under the parameters `P`: its next event; with no event left, all state holds its value
(R145). An access outside the interface leaves the host stuck (R55). -/
def hostStep (P : Params) (s : State) : Host.Outcome State Fault Refusal :=
  match s.inputs with
  | [] => .next s.usePick
  | e :: _ => if e.legal then .next (s.hostAct P e).usePick else .fault .hostStuck

/-- One step of this hardware: the agent that moves is the engine or the host (R23). -/
def step (s : State) : Host.Outcome State Fault Refusal :=
  match s.pend with
  | none => hostStep Config.params s
  | some w => if s.engineMoves then engineStep w s else hostStep Config.params s

/-- `s` with the command word pending, as after an accepted write to COMMAND (R122), and the engine picked for the
coming step. -/
def State.withFetchWord (s : State) (nbits w : Nat) : State :=
  { s with pend := some (tableWord nbits w), sched := .engine :: s.sched }

end Sys2Proof.Machine
end

