-- ==== Sys2Proof/Machine/HostProgram.lean ====
section
/-! DEFINITION. The notation of host programs (30_encoding.md R73, R74) as lists of host events. Placing such a list in
`State.inputs` is how a program comes to run (log entry 5). -/

namespace Sys2Proof.Machine

/-- `WR <reg>, <imm32>` (R73). The address is an offset from BASE. -/
def wr (r : HostReg) (v : Word) : HostEvent := .write (BitVec.ofNat 13 r.addr) 4 v

/-- `RD <reg>` (R73). -/
def rd (r : HostReg) : HostEvent := .read (BitVec.ofNat 13 r.addr) 4

/-- `CMD <mnemonic> …` (R73). -/
def cmd (i : Instr) : HostEvent := wr (.word .command) (encode i)

/-- `LD64 <X>, <v64>` (R74). -/
def ld64 (x : Reg64) (v : FX64) : List HostEvent := [wr (.lo x) (loHalf v), wr (.hi x) (hiHalf v)]

/-- `X <mnemonic> …`: the command, then WAIT (R74). -/
def cmdWait (i : Instr) : List HostEvent := [cmd i, .wait]

/-- `SLOT <i>, <min>, <max>, LIN|LOG` (R74). -/
def slotLines (i : Fin Config.nslot) (c : Slot) : List HostEvent :=
  ld64 (.slotMin i) c.min ++ ld64 (.slotMax i) c.max ++ [wr (.word (.slotCurve i)) (bitWord (curveBit c.curve))]

/-- `SW <regular>, <lfo>, <lowpass>` (R74). -/
def swLine (regular lfo lowpass : Bool) : HostEvent :=
  wr (.word .cfSwitch) (bitWord regular ||| bitWord lfo <<< 1 ||| bitWord lowpass <<< 2)

/-- `KNOB <i>, <k16>` (R74). -/
def knobLine (i : Fin Config.nslot) (k : BitVec 16) : HostEvent := wr (.word (.cfKnob i)) (k.zeroExtend 32)

/-- `ENC <n>` (R74). -/
def encLine (n : Int) : HostEvent := wr (.word .cfEnc) ((BitVec.ofInt 16 n).zeroExtend 32)

/-- `LOCK` (R74). -/
def lockLine : HostEvent := wr (.word .ctrl) 1

/-- `CLRERR` (R74). -/
def clrErrLine : HostEvent := wr (.word .status) 0xE

end Sys2Proof.Machine
end

