-- ==== Sys2Proof/Safety.lean ====
section
/-! DEFINITION. What counts as a safe run: the invariant of the machine, the premise LegalConfig on the configuration
(70_reset_and_hazards.md R149), and a run with no contract violation (60_exceptions.md R135). -/

namespace Sys2Proof.Machine

/-- Every index of a memory is below `n`. -/
def Memory.Below (m : Memory) (n : Nat) : Prop := ∀ e ∈ m, e.1 < n

/-- The invariant every step keeps. -/
structure State.Inv (P : Params) (s : State) : Prop where
  /-- DBUF is in canonical form and has indices below CAP (R51). -/
  dbufWf : s.dly.buf.wf
  dbufBelow : Memory.Below s.dly.buf P.cap
  /-- OUTBUF is in canonical form and has BLK_MAX × 2 entries (R46). -/
  outbufWf : s.outbuf.wf
  outbufBelow : Memory.Below s.outbuf (Config.nch * P.blkMax)
  /-- The write index is an integer in [0, CAP) (R28). -/
  writeIndex : s.dly.w < P.cap
  /-- The volume is kept in [0, ONE] (R29, R136). -/
  volume : 0 ≤ s.snap.volume.toInt ∧ s.snap.volume.toInt ≤ ONE.toInt
  /-- OUT_L and OUT_R are equal (R25). -/
  outEqual : s.regs.outL = s.regs.outR
  /-- Both channels of OUTBUF are equal (R21, R46). -/
  channelsEqual : ∀ k < P.blkMax, s.readOutbuf k 0 = s.readOutbuf k 1
  /-- The display shows the volume (R30, R117). -/
  displayShown : s.disp = display s.snap.volume

/-- The integer |v| of an FX64 value. -/
def absRaw (v : FX64) : Int := |v.toInt|

/-- `LegalConfig`: the configuration keeps every caller contract of the source (R149). -/
structure Configuration.Legal (P : Params) (c : Configuration) : Prop where
  /-- Condition 1. -/
  logPositive : ∀ i : Fin Config.nslot, c.slots[i].curve = .logarithmic →
    0 < c.slots[i].min.toInt ∧ 0 < c.slots[i].max.toInt
  /-- Condition 2, slot 0, the LFO rate. -/
  lfoRate : inBand P c.slots[0].min ∧ inBand P c.slots[0].max
  /-- Condition 2, slot 5, the filter cutoff. -/
  cutoff : inBand P c.slots[5].min ∧ inBand P c.slots[5].max
  /-- Condition 3. -/
  delayLength : delayInRange P c.slots[3].min ∧ delayInRange P c.slots[3].max
  /-- Condition 4. -/
  feedback : gainInRange c.slots[4].min ∧ gainInRange c.slots[4].max
  /-- Condition 5: Bmin − A > 0. -/
  pitchLow : 0 < min c.slots[2].min.toInt c.slots[2].max.toInt - max (absRaw c.slots[1].min) (absRaw c.slots[1].max)
  /-- Condition 5: Bmax + A < NYQ. -/
  pitchHigh :
    max c.slots[2].min.toInt c.slots[2].max.toInt + max (absRaw c.slots[1].min) (absRaw c.slots[1].max) < P.nyq
  /-- Condition 6. -/
  noSaturation : ∀ i : Fin Config.nslot, |c.slots[i].max.toInt - c.slots[i].min.toInt| < 2 ^ 63

/-- A state from which BLOCK commands record no violation: LegalConfig holds and the current delay is legal (R151). -/
structure State.BlockReady (P : Params) (s : State) : Prop where
  config : s.cfg.Legal P
  delay : delayInRange P s.dly.cur

/-- No contract violation has been recorded: the premise of every claim about a run (R135). -/
def State.NoViolation (s : State) : Prop := s.viol = []

end Sys2Proof.Machine
end

