-- ==== Sys2Proof/Certificates/Slice0/Obligations.lean ====
section
/-! DEFINITION. The statements about the DSLFO model. Each docstring says which rules of spec/ the statement rests on; a
statement about the filter kernel or a free value holds for every value of it. -/

open Sys2Proof Sys2Proof.Machine

/-! ### Encoding -/

/-- Decoding an encoded well-formed command gives it back (R66, R68, R70, R71). -/
def Obligations.EncodedCommandDecodesToItself : Prop :=
  ∀ i : Instr, i.wellFormed = true → decode (encode i) = .ok i

/-- A word that decodes is the encoding of the command it decodes to, which is well formed: no two words mean the same
command (R70, R71). -/
def Obligations.DecodedWordIsTheEncoding : Prop :=
  ∀ (w : Word) (i : Instr), decode w = .ok i → encode i = w ∧ i.wellFormed = true

/-- The ten worked encodings of R75. -/
def Obligations.WorkedEncodings : Prop :=
  decode 0x10300000#32 = .ok (.pmapEval 3) ∧
  decode 0x22100000#32 = .ok (.oscProcess .lfo) ∧
  decode 0x31000001#32 = .ok (.svfSetMode .highpass) ∧
  decode 0x5100FFFF#32 = .ok (.encApply (-1)) ∧
  decode 0x61000030#32 = .ok (.block 48) ∧
  decode 0x61000100#32 = .ok (.block 256) ∧
  decode 0x61000101#32 = .error .badSize ∧
  decode 0x00010000#32 = .error .badRsv ∧
  decode 0x10600000#32 = .error .badSel ∧
  decode 0x30000001#32 = .error .badImm

/-- The checks of R71 over the fields of the word as numbers: a word decodes exactly when it passes all of them, and
otherwise the first that fails is the one reported (R137). -/
def Obligations.FirstFailingCheckIsReported : Prop :=
  ∀ w : Word,
    let opc := w.toNat / 2 ^ 24
    let sel := w.toNat / 2 ^ 20 % 16
    let rsv := w.toNat / 2 ^ 16 % 16
    let imm := w.toNat % 2 ^ 16
    let legal : Prop := opc ∈ [0x00, 0x01, 0x10, 0x20, 0x21, 0x22, 0x30, 0x31, 0x32, 0x40, 0x41, 0x50, 0x51, 0x60, 0x61]
    let maxSel := if opc = 0x10 then 5 else if opc ∈ [0x20, 0x21, 0x22] then 1 else 0
    let badImm : Prop := (opc = 0x31 ∧ 2 ≤ imm) ∨ (opc ∉ [0x31, 0x51, 0x61] ∧ imm ≠ 0)
    let badSize : Prop := opc = 0x61 ∧ 256 < imm
    (decode w = .error .badOpc ↔ ¬legal) ∧
    (decode w = .error .badRsv ↔ legal ∧ rsv ≠ 0) ∧
    (decode w = .error .badSel ↔ legal ∧ rsv = 0 ∧ maxSel < sel) ∧
    (decode w = .error .badImm ↔ legal ∧ rsv = 0 ∧ sel ≤ maxSel ∧ badImm) ∧
    (decode w = .error .badSize ↔ legal ∧ rsv = 0 ∧ sel ≤ maxSel ∧ badSize) ∧
    ((∃ i, decode w = .ok i) ↔ legal ∧ rsv = 0 ∧ sel ≤ maxSel ∧ ¬badImm ∧ ¬badSize)

/-! ### The step -/

/-- When the pending word decodes to a command and the engine moves, the step is exec of that command, after which the
engine is IDLE (R123). The scheduler's pick is the model's own (log entry 4). -/
def Obligations.StepExecutesPendingCommand : Prop :=
  ∀ (s t : State) (w : Word) (i : Instr), s.pend = some w → decode w = .ok i →
    (s.hostEnabled = false ∨ s.sched.head? ≠ some .host) → exec i s = .next t →
    step s = .next { t with pend := none, sched := t.sched.tail }

/-- A pending word that fails decoding changes only CMD_ERR, ERR_CAUSE, ERR_WORD and st.pend; the cause and the word
are recorded only if CMD_ERR was 0, and the codes are 1 to 5 (R134). The scheduler's pick is the model's own. -/
def Obligations.RejectedWordOnlyRecordsTheError : Prop :=
  (∀ (s : State) (w : Word) (c : CmdError), s.pend = some w → decode w = .error c →
    (s.hostEnabled = false ∨ s.sched.head? ≠ some .host) →
    step s = .next { s with
      pend := none
      sched := s.sched.tail
      err := { s.err with
        cmdErr := true
        cause := if s.err.cmdErr then s.err.cause else some c
        word := if s.err.cmdErr then s.err.word else w } }) ∧
  causeCode .badOpc = 1 ∧ causeCode .badRsv = 2 ∧ causeCode .badSel = 3 ∧ causeCode .badImm = 4 ∧ causeCode .badSize = 5

/-- A command stored where the machine takes its next one runs as the very next step, whatever the host's coming events
and the scheduler's picks are. That a program comes to run so is the model's own (log entry 5). -/
def Obligations.FetchedWordRunsNext : Prop :=
  ∀ (s t : State) (i : Instr), i.wellFormed = true →
    exec i { s with pend := some (encode i), sched := .engine :: s.sched } = .next t →
    step (s.withFetchWord 32 (encode i).toNat) = .next { t with pend := none, sched := t.sched.tail }

/-- With no command pending and no host event, all state holds its value (R145). The scheduler's pick is the model's
own. -/
def Obligations.IdleMachineHoldsItsState : Prop :=
  ∀ s : State, s.pend = none → s.inputs = [] → step s = .next { s with sched := s.sched.tail }

/-- The model's reading of "the host has no step" (R55, R133) and "the engine is enabled" (R123), log entry 10: an access that
is not a 32-bit access at a 4-byte-aligned address stops the machine with hostStuck while no command is pending, and a
pending command still executes. -/
def Obligations.AccessOutsideTheInterfaceStopsTheHost : Prop :=
  ∀ (s : State) (a : Addr) (n : Nat) (v : Word) (rest : List HostEvent), (n ≠ 4 ∨ a.toNat % 4 ≠ 0) →
    (s.inputs = .read a n :: rest ∨ s.inputs = .write a n v :: rest) →
    (s.pend = none → step s = .fault .hostStuck) ∧ (∀ w, s.pend = some w → step s = engineStep w s)

/-- Every command completes in every state, and none changes the pending command, the operands, the lock, the
configuration, the switches or the knobs, nor what the host does and has read (R69, R124, R130). -/
def Obligations.EveryCommandCompletes : Prop :=
  ∀ (i : Instr) (s : State), i.wellFormed = true → ∃ t, exec i s = .next t ∧
    t.pend = s.pend ∧ t.regs.arg0 = s.regs.arg0 ∧ t.regs.arg1 = s.regs.arg1 ∧ t.cfgLock = s.cfgLock ∧
    t.cfg = s.cfg ∧ t.cf.switch = s.cf.switch ∧ t.cf.knobs = s.cf.knobs ∧
    t.inputs = s.inputs ∧ t.sched = s.sched ∧ t.replies = s.replies

/-! ### Numbers -/

/-- fadd, fsub and fneg are exact sums, saturated; fneg saturates only at −2^63 (R12, R13). -/
def Obligations.SaturatingSums : Prop :=
  ∀ a b : FX64,
    (fadd a b).toInt = min (max (a.toInt + b.toInt) (-2 ^ 63)) (2 ^ 63 - 1) ∧
    (fsub a b).toInt = min (max (a.toInt - b.toInt) (-2 ^ 63)) (2 ^ 63 - 1) ∧
    (a.toInt ≠ -2 ^ 63 → (fneg a).toInt = -a.toInt) ∧
    (a.toInt = -2 ^ 63 → (fneg a).toInt = 2 ^ 63 - 1)

/-- fmul rounds the exact product toward minus infinity, saturated; its exact cases, the third for an n that fint
represents (R14). -/
def Obligations.ProductRoundsDown : Prop :=
  ∀ a b : FX64,
    (fmul a b).toInt = min (max ⌊((a.toInt : ℚ) * b.toInt) / 2 ^ 32⌋ (-2 ^ 63)) (2 ^ 63 - 1) ∧
    fmul ONE b = b ∧ fmul 0 b = 0 ∧
    ∀ n : Int, -2 ^ 31 ≤ n → n < 2 ^ 31 → fmul a (fint n) = sat (a.toInt * n)

/-! ### ParameterMap -/

/-- PMAP_EVAL writes RES0 with the slot's map of ARG0 and records the violations; nothing else changes. A misconfigured
LOGARITHMIC slot gives the next free value, whose form is the model's own (log entry 3) (R76, R78, R79, R81). -/
def Obligations.PmapEvalWritesTheMappedValue : Prop :=
  ∀ (i : Fin Config.nslot) (s : State),
    let c := s.cfg.slots[i]
    let raw := s.regs.arg0
    let viol := s.viol ++ if 0 ≤ raw.toInt ∧ raw.toInt ≤ 2 ^ 32 then [] else [.rawRange]
    (c.curve = .linear →
      exec (.pmapEval i) s = .next { s with
        regs := { s.regs with res0 := fadd c.min (fmul raw (fsub c.max c.min)) }
        viol := viol }) ∧
    (c.curve = .logarithmic → 0 < c.min.toInt → 0 < c.max.toInt →
      exec (.pmapEval i) s = .next { s with
        regs := { s.regs with res0 := logCurve Config.kernels.logMid c.min c.max raw }
        viol := viol }) ∧
    (c.curve = .logarithmic → (c.min.toInt ≤ 0 ∨ c.max.toInt ≤ 0) →
      exec (.pmapEval i) s = .next { s with
        regs := { s.regs with res0 := Config.draw s.draws }
        viol := viol ++ [.logCfg]
        draws := s.draws + 1 })

/-- The LINEAR map on [0, ONE], where max − min does not saturate: exact at both ends, between min and max, and
monotonic (R80). -/
def Obligations.LinearMapStaysInRange : Prop :=
  ∀ mn mx raw raw' : FX64, |mx.toInt - mn.toInt| < 2 ^ 63 → 0 ≤ raw.toInt → raw.toInt ≤ raw'.toInt → raw'.toInt ≤ 2 ^ 32 →
    linmap mn mx 0 = mn ∧ linmap mn mx ONE = mx ∧
    min mn.toInt mx.toInt ≤ (linmap mn mx raw).toInt ∧ (linmap mn mx raw).toInt ≤ max mn.toInt mx.toInt ∧
    (mn.toInt ≤ mx.toInt → (linmap mn mx raw).toInt ≤ (linmap mn mx raw').toInt) ∧
    (mx.toInt ≤ mn.toInt → (linmap mn mx raw').toInt ≤ (linmap mn mx raw).toInt)

/-- Every LOGMAP the model admits meets conditions 1 to 3 of R77 on legal ranges, and on a range with equal ends gives
that constant for every reading, in [0, ONE] or outside (R77, R81). -/
def Obligations.LogMapMeetsItsContract : Prop :=
  ∀ (K : Kernels) (mn mx raw raw' : FX64), 0 < mn.toInt → 0 < mx.toInt →
    0 ≤ raw.toInt → raw.toInt ≤ raw'.toInt → raw'.toInt ≤ 2 ^ 32 →
    let f := logCurve K.logMid mn mx
    f 0 = mn ∧ f ONE = mx ∧
    min mn.toInt mx.toInt ≤ (f raw).toInt ∧ (f raw).toInt ≤ max mn.toInt mx.toInt ∧
    (mn.toInt ≤ mx.toInt → (f raw).toInt ≤ (f raw').toInt) ∧
    (mx.toInt < mn.toInt → (f raw').toInt ≤ (f raw).toInt) ∧
    (mn = mx → ∀ r, f r = mn)

/-- The sine and the logarithmic curve of this hardware are SIN_REF and LOGMAP_REF, which so meet their contracts: the
exact values rounded to nearest, ties to even, LOGMAP_REF on every legal range and for every reading (R77, R84). -/
def Obligations.ReferenceKernelsAreAdmitted : Prop :=
  Config.kernels.IsSinRef ∧ Config.kernels.IsLogmapRef

/-! ### Oscillator and LFO -/

/-- OSC_SETFREQ writes ARG0 to the frequency of the selected unit and OSC_SETAMP to its amplitude; neither touches the
phase, the other unit, or anything else (R87). -/
def Obligations.OscSettersWriteOneField : Prop :=
  ∀ s : State,
    exec (.oscSetFreq .osc) s = .next { s with osc := { s.osc with freq := s.regs.arg0 } } ∧
    exec (.oscSetFreq .lfo) s = .next { s with lfo := { s.lfo with freq := s.regs.arg0 } } ∧
    exec (.oscSetAmp .osc) s = .next { s with osc := { s.osc with amp := s.regs.arg0 } } ∧
    exec (.oscSetAmp .lfo) s = .next { s with lfo := { s.lfo with amp := s.regs.arg0 } }

/-- OSC_PROCESS gives the waveform at the phase before the call in RES0, advances the selected unit's phase by
`freq div SR` modulo 2^32, and records V_FREQ_RANGE if the frequency is not in (0, SR/2); nothing else changes
(R18, R83, R85, R86, R91). -/
def Obligations.OscProcessGivesOneSample : Prop :=
  ∀ s : State,
    exec (.oscProcess .osc) s = .next { s with
      regs := { s.regs with res0 := if s.osc.phase.toNat < 2 ^ 31 then s.osc.amp else fneg s.osc.amp }
      osc := { s.osc with phase := s.osc.phase + BitVec.ofInt 32 (s.osc.freq.toInt / 48000) }
      viol := s.viol ++ if 0 < s.osc.freq.toInt ∧ s.osc.freq.toInt < 48000 * 2 ^ 31 then [] else [.freqRange] } ∧
    exec (.oscProcess .lfo) s = .next { s with
      regs := { s.regs with res0 := fmul (sinCurve Config.kernels.sinMid s.lfo.phase) s.lfo.amp }
      lfo := { s.lfo with phase := s.lfo.phase + BitVec.ofInt 32 (s.lfo.freq.toInt / 48000) }
      viol := s.viol ++ if 0 < s.lfo.freq.toInt ∧ s.lfo.freq.toInt < 48000 * 2 ^ 31 then [] else [.freqRange] }

/-- For every sine the model admits, the SINE waveform never exceeds the amplitude, and it is 0, a, 0 and −a at the
four quarter phases (R84, R85, R149). -/
def Obligations.SineStaysWithinTheAmplitude : Prop :=
  ∀ (K : Kernels) (p : Phase) (a : FX64),
    |(wave K .sine p a).toInt| ≤ |a.toInt| ∧
    wave K .sine 0 a = 0 ∧ wave K .sine 0x40000000#32 a = a ∧
    wave K .sine 0x80000000#32 a = 0 ∧ wave K .sine 0xC0000000#32 a = fneg a

/-- n calls of OscProcess advance the phase by n phase increments, modulo 2^32, and change neither the frequency nor the
amplitude, at any sample rate; so the sample repeats after any number of calls whose increments add up to whole periods
(R7, R86, R88). -/
def Obligations.PhaseGainsOneIncrementPerCall : Prop :=
  ∀ (P : Params) (k : OscId) (n : Nat) (s : State),
    let t := (fun u => (oscProcess P k u).1)^[n] s
    t.oscillator k = { s.oscillator k with
      phase := (s.oscillator k).phase + BitVec.ofNat 32 n * phinc P (s.oscillator k).freq } ∧
    (n * (phinc P (s.oscillator k).freq).toNat % 2 ^ 32 = 0 →
      (oscProcess P k t).2 = (oscProcess P k s).2)

/-! ### Filter -/

/-- SVF_SETFREQ writes only the cutoff and SVF_SETMODE only the mode: the integrators keep their values (R96, R97, R99,
R100). -/
def Obligations.FilterSettersKeepTheIntegrators : Prop :=
  ∀ (m : FilterMode) (s : State),
    exec .svfSetFreq s = .next { s with svf := { s.svf with fc := s.regs.arg0 } } ∧
    exec (.svfSetMode m) s = .next { s with svf := { s.svf with mode := m } }

/-- SVF_PROCESS runs the filter kernel on ARG0: the integrators take the new state, RES0 the selected tap and RES1 the
other, and V_FC_RANGE is recorded if the cutoff is not in (0, SR/2); nothing else changes (R95, R101). -/
def Obligations.SvfProcessSelectsTheTap : Prop :=
  ∀ s : State,
    let o := Config.kernels.svf s.svf.fc s.cfg.svfRes s.cfg.svfDrive s.svf.s1 s.svf.s2 s.regs.arg0
    exec .svfProcess s = .next { s with
      svf := { s.svf with s1 := o.s1, s2 := o.s2 }
      regs := { s.regs with
        res0 := if s.svf.mode = .lowpass then o.lo else o.hi
        res1 := if s.svf.mode = .lowpass then o.hi else o.lo }
      viol := s.viol ++ if 0 < s.svf.fc.toInt ∧ s.svf.fc.toInt < 48000 * 2 ^ 31 then [] else [.fcRange] }

/-! ### Delay line -/

/-- DLY_UPDATE writes the target and the gain and records the range violations; the current length and all else keep
their values (R102, R111). -/
def Obligations.DelayUpdateSetsTargetAndGain : Prop :=
  ∀ s : State,
    exec .dlyUpdate s = .next { s with
      dly := { s.dly with tgt := s.regs.arg0, fb := s.regs.arg1 }
      viol := s.viol
        ++ (if 0 ≤ s.regs.arg0.toInt ∧ s.regs.arg0.toInt < 120000 * 2 ^ 32 then [] else [.dlenRange])
        ++ (if 0 ≤ s.regs.arg1.toInt ∧ s.regs.arg1.toInt ≤ 2 ^ 32 then [] else [.fbRange]) }

/-- One smoothing step, with D = tgt − cur not saturating, moves the length by floor(D × 858993 / 2^32): rising, it never
passes the target and is 0 exactly within 5000 raw units of it; falling, it never passes the target and always moves; at
the target it stays (R103, R109). -/
def Obligations.SmoothingNeverOvershoots : Prop :=
  ∀ cur tgt : FX64,
    let d := tgt.toInt - cur.toInt
    let moved := (smooth Config.params cur tgt).toInt - cur.toInt;
    (-2 ^ 63 ≤ d) → d < 2 ^ 63 →
    moved = d * 858993 / 2 ^ 32 ∧
    (0 < d → 0 ≤ moved ∧ moved ≤ d - 1 ∧ (moved = 0 ↔ d ≤ 5000)) ∧
    (d < 0 → d ≤ moved ∧ moved ≤ -1) ∧
    (d = 0 → moved = 0)

/-- DLY_PROCESS: the length is smoothed, the buffer is read `cur` samples behind the write index with linear
interpolation, the read is filtered, `fb × fr + in` is written at the write index, which advances modulo CAP, and
`fb × fr + (1 − fb) × in` and fr go to RES0 and RES1; nothing else changes (R103 to R108, R112). -/
def Obligations.DelayProcessRunsTheFiveSteps : Prop :=
  ∀ s : State,
    let cur := fadd s.dly.cur (fmul (fsub s.dly.tgt s.dly.cur) 858993#64)
    let i := cur.toInt / 2 ^ 32
    let f : FX64 := BitVec.ofInt 64 (cur.toInt % 2 ^ 32)
    let a := s.dly.buf.read (((s.dly.w : Int) - i) % 120000).toNat
    let b := s.dly.buf.read (((s.dly.w : Int) - i - 1) % 120000).toNat
    let r := fadd a (fmul f (fsub b a))
    let o := Config.kernels.svf s.svf.fc s.cfg.svfRes s.cfg.svfDrive s.svf.s1 s.svf.s2 r
    let fr := if s.svf.mode = .lowpass then o.lo else o.hi
    let inp := s.regs.arg0
    exec .dlyProcess s = .next { s with
      dly := { s.dly with
        cur := cur
        buf := s.dly.buf.write s.dly.w (fadd (fmul s.dly.fb fr) inp)
        w := (s.dly.w + 1) % 120000 }
      svf := { s.svf with s1 := o.s1, s2 := o.s2 }
      regs := { s.regs with
        res0 := fadd (fmul s.dly.fb fr) (fmul (fsub ONE s.dly.fb) inp)
        res1 := fr }
      viol := s.viol
        ++ (if 0 ≤ cur.toInt ∧ cur.toInt < 120000 * 2 ^ 32 then [] else [.dlenRange])
        ++ (if 0 < s.svf.fc.toInt ∧ s.svf.fc.toInt < 48000 * 2 ^ 31 then [] else [.fcRange]) }

/-- DLY_PROCESS and SAMPLE store one entry of the buffer, at the write index: every other entry reads as before
(R52, R106). -/
def Obligations.OneTickStoresOneEntry : Prop :=
  ∀ (i : Instr) (s t : State), (i = .dlyProcess ∨ i = .sample) → s.dly.buf.wf → exec i s = .next t →
    ∀ j, j ≠ s.dly.w → t.dly.buf.read j = s.dly.buf.read j

/-- The ends of the mix, through DLY_PROCESS: with gain 0 the output and the entry written are the input; with gain ONE
the output is the filtered read and the entry written is its sum with the input (R106, R107, R110). -/
def Obligations.GainSelectsDryOrWet : Prop :=
  ∀ s : State, s.dly.buf.wf → ∃ t, exec .dlyProcess s = .next t ∧
    (s.dly.fb = 0 → t.regs.res0 = s.regs.arg0 ∧ t.dly.buf.read s.dly.w = s.regs.arg0) ∧
    (s.dly.fb = ONE → t.regs.res0 = t.regs.res1 ∧ t.dly.buf.read s.dly.w = fadd t.regs.res1 s.regs.arg0)

/-- An integer delay of k samples, 1 ≤ k ≤ CAP − 1, reads exactly the value written k ticks before (R104). -/
def Obligations.IntegerDelayReadsTheValueWritten : Prop :=
  ∀ (s : State) (fr inp : FX64) (later : List (FX64 × FX64)), s.dly.buf.wf → s.dly.w < Config.params.cap →
    later.length + 1 ≤ Config.params.cap - 1 →
    let t := later.foldl (fun u p => delayWrite Config.params p.1 p.2 u) (delayWrite Config.params fr inp s)
    t.dly.cur = fint (later.length + 1) → delayTap Config.params t = fadd (fmul s.dly.fb fr) inp

/-! ### Control update, volume and display -/

/-- ENC_APPLY adds 0.05 × n to the volume, clamped to [0, ONE], sets ACK exactly for n = 1, and shows the new volume;
nothing else changes, CF_ENC included (R116, R121). From any volume in [0, ONE], +100 gives exactly ONE and −100 exactly
0 (R119). -/
def Obligations.EncApplyStepsTheVolume : Prop :=
  ∀ (n : BitVec 16) (s : State),
    let v := fclamp (fadd s.snap.volume (sat (214748365 * n.toInt))) 0 ONE
    exec (.encApply n) s = .next { s with
      snap := { s.snap with volume := v }
      ack := decide (n = 1)
      disp := display v } ∧
    (0 ≤ s.snap.volume.toInt → s.snap.volume.toInt ≤ 2 ^ 32 → (n = 100 → v = ONE) ∧ (n = -100 → v = 0))

/-- The display of a volume in [0, ONE]: segment k is full once the volume reaches k + 1 segment widths
(SEG_W = 1/8), shows the fraction of its width in between, and is 0 below k widths (R117). -/
def Obligations.DisplayShowsTheVolume : Prop :=
  ∀ (v : FX64) (k : Fin Config.nseg), 0 ≤ v.toInt → v.toInt ≤ 2 ^ 32 →
    (display v)[k] =
      if (k + 1) * Config.segW.toInt ≤ v.toInt then 0x00010000#32
      else if k * Config.segW.toInt ≤ v.toInt then BitVec.ofInt 32 ((v.toInt - k * Config.segW.toInt) / 2 ^ 13)
      else 0

/-- CTRL_UPDATE: flags and mode from CF_SWITCH, each knob's mapped value to its destination, the volume trim from CF_ENC,
which is cleared; nothing else changes. Each misconfigured LOGARITHMIC slot records V_LOG_CFG and gives the next free
value, whose form is the model's own (log entry 3); then the target and the gain are checked (R78, R102, R113 to R116,
R118, R120). -/
def Obligations.CtrlUpdatePushesTheFrame : Prop :=
  ∀ s : State,
    let illegal : Fin Config.nslot → Bool := fun i =>
      decide (s.cfg.slots[i].curve = .logarithmic ∧ (s.cfg.slots[i].min.toInt ≤ 0 ∨ s.cfg.slots[i].max.toInt ≤ 0))
    let drawn : List (Fin Config.nslot) := (List.finRange Config.nslot).filter illegal
    let mapped : Fin Config.nslot → FX64 := fun i =>
      let c := s.cfg.slots[i]
      let raw : FX64 := BitVec.ofNat 64 (s.cf.knobs[i].toNat * 2 ^ 16)
      if c.curve = .linear then fadd c.min (fmul raw (fsub c.max c.min))
      else if illegal i then Config.draw (s.draws + (drawn.filter (· < i)).length)
      else logCurve Config.kernels.logMid c.min c.max raw
    let v := fclamp (fadd s.snap.volume (sat (214748365 * s.cf.enc.toInt))) 0 ONE
    exec .ctrlUpdate s = .next { s with
      snap := ⟨s.cf.switch[0], s.cf.switch[1], s.cf.switch[2], mapped 2, v⟩
      svf := { s.svf with fc := mapped 5, mode := if s.cf.switch[2] then .lowpass else .highpass }
      lfo := { s.lfo with freq := mapped 0, amp := mapped 1 }
      dly := { s.dly with tgt := mapped 3, fb := mapped 4 }
      cf := { s.cf with enc := 0 }
      ack := decide (s.cf.enc = 1)
      disp := display v
      draws := s.draws + drawn.length
      viol := s.viol ++ drawn.map (fun _ => .logCfg)
        ++ (if 0 ≤ (mapped 3).toInt ∧ (mapped 3).toInt < 120000 * 2 ^ 32 then [] else [.dlenRange])
        ++ (if 0 ≤ (mapped 4).toInt ∧ (mapped 4).toInt ≤ 2 ^ 32 then [] else [.fbRange]) }

/-- Apart from the volume, what a control update sets depends only on the control frame, the configuration and the free
values drawn so far: two states that agree on these agree on all of it afterwards (R119). -/
def Obligations.ControlDependsOnlyOnFrameAndConfig : Prop :=
  ∀ s s' : State, s'.cf = s.cf → s'.cfg = s.cfg → s'.draws = s.draws →
    ∃ t t', exec .ctrlUpdate s = .next t ∧ exec .ctrlUpdate s' = .next t' ∧
      t'.snap.regular = t.snap.regular ∧ t'.snap.lfo = t.snap.lfo ∧ t'.snap.lowpass = t.snap.lowpass ∧
      t'.snap.baseFreq = t.snap.baseFreq ∧ t'.lfo.freq = t.lfo.freq ∧ t'.lfo.amp = t.lfo.amp ∧
      t'.dly.tgt = t.dly.tgt ∧ t'.dly.fb = t.dly.fb ∧ t'.svf.fc = t.svf.fc ∧ t'.svf.mode = t.svf.mode

/-! ### Engine -/

/-- NOP changes nothing (R129). RESET gives the datapath, the results, OUTBUF and the error registers their reset values,
gives the oscillator's amplitude the value of OSC_AMP, and keeps everything else (R47, R130). -/
def Obligations.NopAndResetEffects : Prop :=
  ∀ s : State, exec .nop s = .next s ∧ exec .reset s = .next { s with
    osc := ⟨0, s.cfg.oscAmp, 0⟩
    lfo := ⟨0, 0, 0⟩
    svf := ⟨0, .lowpass, 0, 0⟩
    dly := ⟨[], 0, 0, 0, 0⟩
    snap := ⟨false, false, true, 0, 0⟩
    ack := false
    disp := Vector.replicate 8 0
    regs := ⟨s.regs.arg0, s.regs.arg1, 0, 0, 0, 0⟩
    outbuf := []
    err := ⟨false, false, false, none, 0⟩ }

/-- Power-on reset puts every register and all internal state in the reset state; only the violation record and the
model's own fields keep their values (R146, R31; log entries 3 to 5). -/
def Obligations.PowerOnResetReachesTheResetState : Prop :=
  ∀ s : State, powerOnReset Config.params s = { State.reset with
    viol := s.viol, draws := s.draws, inputs := s.inputs, sched := s.sched, replies := s.replies }

/-- After a reset the results of a command sequence do not depend on what came before: two states with the same
configuration, control frame, operands and draw count (the model's own, log entry 3) agree, after RESET and any sequence
of well-formed commands, on all the state but the violation record, the pending command, the lock and the model's own host fields (R147). -/
def Obligations.HistoryBeforeResetIsForgotten : Prop :=
  ∀ (s s' : State) (is : List Instr), s'.cfg = s.cfg → s'.cf = s.cf → s'.regs.arg0 = s.regs.arg0 →
    s'.regs.arg1 = s.regs.arg1 → s'.draws = s.draws → (∀ i ∈ is, i.wellFormed = true) →
    let run : State → Host.Outcome State Fault Refusal := fun u =>
      (Instr.reset :: is).foldl (fun o i => match o with | .next v => exec i v | o => o) (.next u)
    ∃ t t', run s = .next t ∧ run s' = .next t' ∧
      t' = { t with
        viol := t'.viol, pend := s'.pend, cfgLock := s'.cfgLock, inputs := s'.inputs, sched := s'.sched,
        replies := s'.replies }

/-- SAMPLE: the LFO and the oscillator advance on every tick, the LFO's sample (in LFO mode) shifts the oscillator's
frequency before its advance, the gated sample enters the delay line, and y = d × volume goes to RES0, OUT_L and OUT_R
and d to RES1; the snapshot and everything else keep their values (R107, R126, R131). -/
def Obligations.SampleRunsOneTick : Prop :=
  ∀ s : State,
    let l := if s.snap.lfo then fmul (sinCurve Config.kernels.sinMid s.lfo.phase) s.lfo.amp else 0
    let f := fadd s.snap.baseFreq l
    let square := if s.osc.phase.toNat < 2 ^ 31 then s.osc.amp else fneg s.osc.amp
    let inp := if s.snap.regular ∨ s.snap.lfo then square else 0
    let cur := smooth Config.params s.dly.cur s.dly.tgt
    let r := delayTap Config.params { s with dly := { s.dly with cur := cur } }
    let o := Config.kernels.svf s.svf.fc s.cfg.svfRes s.cfg.svfDrive s.svf.s1 s.svf.s2 r
    let fr := if s.svf.mode = .lowpass then o.lo else o.hi
    let d := fadd (fmul s.dly.fb fr) (fmul (fsub ONE s.dly.fb) inp)
    let y := fmul d s.snap.volume
    exec .sample s = .next { s with
      lfo := { s.lfo with phase := phadv Config.params s.lfo.phase s.lfo.freq }
      osc := { s.osc with freq := f, phase := phadv Config.params s.osc.phase f }
      dly := { s.dly with
        cur := cur
        buf := s.dly.buf.write s.dly.w (fadd (fmul s.dly.fb fr) inp)
        w := (s.dly.w + 1) % Config.params.cap }
      svf := { s.svf with s1 := o.s1, s2 := o.s2 }
      regs := { s.regs with res0 := y, res1 := d, outL := y, outR := y }
      viol := s.viol ++ (if inBand Config.params s.lfo.freq then [] else [.freqRange])
        ++ (if inBand Config.params f then [] else [.freqRange])
        ++ (if delayInRange Config.params cur then [] else [.dlenRange])
        ++ (if inBand Config.params s.svf.fc then [] else [.fcRange]) }

/-- SAMPLE after RESET gives 0 in RES0, RES1, OUT_L and OUT_R for every filter, records V_FREQ_RANGE twice and
V_FC_RANGE once, leaves both phases 0 and the write index 1 (R131). -/
def Obligations.SampleAfterResetIsSilent : Prop :=
  ∀ s : State, ∃ t u, exec .reset s = .next t ∧ exec .sample t = .next u ∧
    u.regs.res0 = 0 ∧ u.regs.res1 = 0 ∧ u.regs.outL = 0 ∧ u.regs.outR = 0 ∧
    u.viol = s.viol ++ [.freqRange, .freqRange, .fcRange] ∧
    u.dly.w = 1 ∧ u.osc.phase = 0 ∧ u.lfo.phase = 0

/-- BLOCK 0 is the control update; BLOCK n writes OUTBUF[k] for k < n with equal channels, keeps the other entries, puts
the last sample in OUT_L and OUT_R, and writes neither RES0 nor RES1 (R132). -/
def Obligations.BlockFillsTheOutputBuffer : Prop :=
  ∀ (n : BitVec 16) (s : State), n.toNat ≤ 256 → s.outbuf.wf → ∃ t, exec (.block n) s = .next t ∧
    (n = 0 → exec .ctrlUpdate s = .next t) ∧
    (∀ k < n.toNat, t.readOutbuf k 0 = t.readOutbuf k 1) ∧
    (∀ k c, n.toNat ≤ k → c < 2 → t.readOutbuf k c = s.readOutbuf k c) ∧
    (0 < n.toNat → t.regs = { s.regs with
      outL := t.readOutbuf (n.toNat - 1) 0, outR := t.readOutbuf (n.toNat - 1) 0 }) ∧
    (n = 0 → t.regs = s.regs) ∧ t.err = s.err ∧ t.osc.amp = s.osc.amp

/-- A block of n + 1 samples is a block of n samples followed by one SAMPLE whose output is OUTBUF[n] (R126, R132). -/
def Obligations.BlockIsOneMoreTick : Prop :=
  ∀ (n : Nat) (s : State), n < 256 → s.outbuf.wf → ∃ t u v,
    exec (.block (BitVec.ofNat 16 n)) s = .next t ∧ exec (.block (BitVec.ofNat 16 (n + 1))) s = .next u ∧
    exec .sample t = .next v ∧
    u.readOutbuf n 0 = v.regs.outL ∧ u.readOutbuf n 1 = v.regs.outR ∧ u.regs.outL = v.regs.outL ∧
    u.osc = v.osc ∧ u.lfo = v.lfo ∧ u.svf = v.svf ∧ u.dly = v.dly ∧ u.viol = v.viol ∧
    (∀ k c, k ≠ n → c < 2 → u.readOutbuf k c = t.readOutbuf k c)

/-- The control update runs once, at the start of a block, and no tick changes what it set: after BLOCK n the snapshot,
the frame, the display and the pushed parameters are those CTRL_UPDATE alone leaves (R61, R132). -/
def Obligations.SnapshotIsConstantInABlock : Prop :=
  ∀ (n : BitVec 16) (s : State), n.toNat ≤ 256 → ∃ t u, exec (.block n) s = .next t ∧ exec .ctrlUpdate s = .next u ∧
    t.snap = u.snap ∧ t.cf = u.cf ∧ t.disp = u.disp ∧ t.ack = u.ack ∧ t.draws = u.draws ∧
    t.lfo.freq = u.lfo.freq ∧ t.lfo.amp = u.lfo.amp ∧ t.svf.fc = u.svf.fc ∧ t.svf.mode = u.svf.mode ∧
    t.dly.tgt = u.dly.tgt ∧ t.dly.fb = u.dly.fb

/-- A block with both mode switches off and gain 0 outputs exactly 0, whatever the oscillator, filter and buffer hold
(R128). -/
def Obligations.GatedBlockIsSilent : Prop :=
  ∀ (n : BitVec 16) (s u : State), n.toNat ≤ 256 → s.outbuf.wf → s.cf.switch[0] = false → s.cf.switch[1] = false →
    exec .ctrlUpdate s = .next u → u.dly.fb = 0 →
    ∃ t, exec (.block n) s = .next t ∧ ∀ k < n.toNat, t.readOutbuf k 0 = 0 ∧ t.readOutbuf k 1 = 0

/-- A block writes only the n buffer entries from the write index on, modulo CAP (R106, R132). -/
def Obligations.BlockStoresOnlyItsOwnEntries : Prop :=
  ∀ (n : BitVec 16) (s t : State), n.toNat ≤ 256 → s.dly.buf.wf → s.dly.w < Config.params.cap →
    exec (.block n) s = .next t →
    t.dly.w = (s.dly.w + n.toNat) % Config.params.cap ∧
    ∀ j, (∀ k < n.toNat, j ≠ (s.dly.w + k) % Config.params.cap) → t.dly.buf.read j = s.dly.buf.read j

/-- The snapshot flags and base frequency, the LFO's frequency and amplitude, the cutoff, the mode and the delay's target
and gain do not reach any result of BLOCK: two states that differ only in these end in the same state (R48). -/
def Obligations.BlockIgnoresWhatTheUpdateRewrites : Prop :=
  ∀ (n : BitVec 16) (s s' : State), n.toNat ≤ 256 →
    s' = { s with
      snap := { s'.snap with volume := s.snap.volume }
      lfo := { s'.lfo with phase := s.lfo.phase }
      svf := { s'.svf with s1 := s.svf.s1, s2 := s.svf.s2 }
      dly := { s.dly with tgt := s'.dly.tgt, fb := s'.dly.fb } } →
    exec (.block n) s' = exec (.block n) s

/-- R151: under LegalConfig, with a current delay in range, a BLOCK records no violation and leaves such a state. -/
def Obligations.LegalBlocksRecordNoViolation : Prop :=
  ∀ (n : BitVec 16) (s : State), n.toNat ≤ 256 → s.BlockReady Config.params →
    ∃ t, exec (.block n) s = .next t ∧ t.viol = s.viol ∧ t.BlockReady Config.params

/-! ### Invariants and whole-machine rules -/

/-- The invariant holds after power-on reset. -/
def Obligations.ResetStateMeetsTheInvariant : Prop :=
  State.reset.Inv Config.params

/-- Every step keeps the invariant: canonical memories with indices in range, the write index below CAP, the volume in
[0, ONE], equal output channels, and a display that shows the volume (R21, R25, R28 to R30, R46, R51). -/
def Obligations.EveryStepKeepsTheInvariant : Prop :=
  ∀ s t : State, s.Inv Config.params → step s = .next t → t.Inv Config.params

/-- No step removes an entry from the violation record (R31, R135). -/
def Obligations.ViolationsAreNeverRemoved : Prop :=
  ∀ s t : State, step s = .next t → ∃ new, t.viol = s.viol ++ new

/-- While CFG_LOCK = 1, no step but power-on reset, taken by the host, changes the configuration or clears the lock (R34,
R140). That a write while BUSY = 1 does not either is the model's reading (log entry 7). -/
def Obligations.LockedConfigurationStays : Prop :=
  ∀ s t : State, s.cfgLock = true → ¬(s.engineMoves = false ∧ s.inputs.head? = some .powerOn) → step s = .next t →
    t.cfgLock = true ∧ t.cfg = s.cfg

/-- Only the engine's CTRL_UPDATE, BLOCK, ENC_APPLY and RESET and the host's power-on reset write the
snapshot, and of these ENC_APPLY writes only the volume (R29, R32). -/
def Obligations.OnlyControlWritesTheSnapshot : Prop :=
  ∀ s t : State, step s = .next t → t.snap ≠ s.snap →
    (s.engineMoves = false ∧ s.inputs.head? = some .powerOn) ∨
    ∃ w i, s.engineMoves = true ∧ s.pend = some w ∧ decode w = .ok i ∧
      (i = .ctrlUpdate ∨ i = .reset ∨ (∃ n, i = .block n) ∨
        ((∃ n, i = .encApply n) ∧ t.snap = { s.snap with volume := t.snap.volume }))

/-- The engine's step is taken: from any state with a pending command, after at most as many steps as the scheduler has
picks left, the machine is at a state with the same command still pending whose next step ends it: the engine executes
that command, or, only if the host has a power-on reset to perform, the reset drops it (R159, R123). The scheduler is the
model's (log entry 4), and so is the reset's arrival (log entry 11). -/
def Obligations.PendingCommandIsEventuallyTaken : Prop :=
  ∀ (s : State) (w : Word), s.pend = some w →
    ∃ n t u, n ≤ s.sched.length ∧ core.run n s = .next t ∧ t.pend = some w ∧ step t = .next u ∧ u.pend = none ∧
      (step t = engineStep w t ∨ (t.engineMoves = false ∧ t.inputs.head? = some .powerOn)) ∧
      (.powerOn ∉ s.inputs → step t = engineStep w t)

/-! ### Host interface -/

/-- A host write to COMMAND is accepted while IDLE, and dropped with OVR set while a command is pending (R122). -/
def Obligations.CommandWriteIsAcceptedOrDropped : Prop :=
  ∀ (s : State) (w : Word),
    (s.pend = none → s.hostWrite Config.params 0x010#13 w = { s with pend := some w }) ∧
    (s.pend ≠ none → s.hostWrite Config.params 0x010#13 w = { s with err := { s.err with ovr := true } })

/-- The register map: every register word has a 4-byte-aligned address below 0x2000, and that address leads to it, so no
two words share one (10_state.md section 6; R46, R50, R54). -/
def Obligations.RegisterMapIsUnambiguous : Prop :=
  ∀ r : HostReg, r.addr < 0x2000 ∧ r.addr % 4 = 0 ∧ regAt Config.params (BitVec.ofNat 13 r.addr) = some r

/-- While no command is pending a read gives the register's value, 0 at COMMAND and at every address that is no
register's, and changes nothing but the host's own record (R56, R57). What each register shows of the state: the constants
(R33), CFG_LOCK, the control frame, the code of the recorded cause and the word that raised it (R36), the snapshot flags
(R38), the phases, the mode, the write index, the segments (R45), and in its two words each 64-bit value: operands,
configuration, internal state (R44) and OUTBUF (R25, R34, R39 to R43, R46, R54). -/
def Obligations.IdleReadsShowTheRegister : Prop :=
  ∀ (s : State) (a : Addr),
    (s.pend = none →
      (∀ r : HostReg, s.hostRead Config.params (BitVec.ofNat 13 r.addr) =
        { s with replies := (BitVec.ofNat 13 r.addr, s.readReg r) :: s.replies }) ∧
      (a.toNat = 0x010 ∨ (∀ r : HostReg, r.addr ≠ a.toNat) →
        s.hostRead Config.params a = { s with replies := (a, 0) :: s.replies })) ∧
    (∀ p ∈ ([(.id, 0x464C5344), (.version, 0x00070000), (.ctrl, s.cfgLock.toNat), (.command, 0),
        (.snap, s.snap.regular.toNat + 2 * s.snap.lfo.toNat + 4 * s.snap.lowpass.toNat),
        (.cfSwitch, s.cf.switch.toNat), (.cfEnc, s.cf.enc.toNat), (.errWord, s.err.word.toNat),
        (.errCause, match s.err.cause with
          | none => 0
          | some .badOpc => 1
          | some .badRsv => 2
          | some .badSel => 3
          | some .badImm => 4
          | some .badSize => 5),
        (.oscPhase, s.osc.phase.toNat), (.lfoPhase, s.lfo.phase.toNat),
        (.svfMode, if s.svf.mode = .lowpass then 0 else 1), (.dlyWptr, s.dly.w % 2 ^ 32)] : List (Reg32 × Nat)),
      (s.readReg (.word p.1)).toNat = p.2) ∧
    (∀ i : Fin Config.nslot, (s.readReg (.word (.cfKnob i))).toNat = s.cf.knobs[i].toNat ∧
      (s.readReg (.word (.slotCurve i))).toNat = if s.cfg.slots[i].curve = .linear then 0 else 1) ∧
    (∀ k : Fin Config.nseg, s.readReg (.word (.dispSeg k)) = s.disp[k]) ∧
    (∀ x : Reg64, s.readReg (.hi x) ++ s.readReg (.lo x) = s.read64 x) ∧
    (∀ p ∈ ([(.arg0, s.regs.arg0), (.arg1, s.regs.arg1), (.res0, s.regs.res0), (.res1, s.regs.res1),
        (.outL, s.regs.outL), (.outR, s.regs.outR), (.svfRes, s.cfg.svfRes), (.svfDrive, s.cfg.svfDrive),
        (.oscAmp, s.cfg.oscAmp), (.volume, s.snap.volume), (.baseFreq, s.snap.baseFreq), (.oscFreq, s.osc.freq),
        (.oscAmpl, s.osc.amp), (.lfoFreq, s.lfo.freq), (.lfoAmpl, s.lfo.amp), (.svfFc, s.svf.fc), (.svfS1, s.svf.s1),
        (.svfS2, s.svf.s2), (.dlyCur, s.dly.cur), (.dlyTgt, s.dly.tgt), (.dlyFb, s.dly.fb)] : List (Reg64 × FX64)),
      s.read64 p.1 = p.2) ∧
    (∀ i : Fin Config.nslot,
      s.read64 (.slotMin i) = s.cfg.slots[i].min ∧ s.read64 (.slotMax i) = s.cfg.slots[i].max) ∧
    (∀ k c, s.read64 (.outbuf k c) = s.outbuf.read (2 * k.val + c.val))

/-- While a command is pending, ID, VERSION, CTRL and STATUS read their values and every other register word reads a
free value, whose form is the model's own (log entry 3) (R58); that COMMAND does too is its reading of "any other
register" (log entry 6). -/
def Obligations.BusyReadsAreDraws : Prop :=
  ∀ (s : State) (r : HostReg), s.pend ≠ none →
    let a := BitVec.ofNat 13 r.addr
    s.hostRead Config.params a =
      if r ∈ [.word .id, .word .version, .word .ctrl, .word .status] then
        { s with replies := (a, s.readReg r) :: s.replies }
      else { s with replies := (a, Config.drawWord s.draws) :: s.replies, draws := s.draws + 1 }

/-- STATUS shows BUSY, CMD_ERR, OVR, LOCK_ERR and ACK in bits 0 to 4 and 0 above; writing 1 clears bits 1 to 3 only
(R35). -/
def Obligations.StatusBits : Prop :=
  ∀ (s : State) (v : Word),
    (s.readReg (.word .status))[0] = s.pend.isSome ∧ (s.readReg (.word .status))[1] = s.err.cmdErr ∧
    (s.readReg (.word .status))[2] = s.err.ovr ∧ (s.readReg (.word .status))[3] = s.err.lockErr ∧
    (s.readReg (.word .status))[4] = s.ack ∧ (s.readReg (.word .status)).toNat < 2 ^ 5 ∧
    s.hostWrite Config.params 0x00C#13 v = { s with err := { s.err with
      cmdErr := s.err.cmdErr && !v[1], ovr := s.err.ovr && !v[2], lockErr := s.err.lockErr && !v[3] } }

/-- Whether or not a command is pending: a write to a configuration register while CFG_LOCK = 1 stores nothing and sets
LOCK_ERR (while BUSY = 1 it also records V_BUSY_WRITE, the model's reading, log entry 7); a write to CTRL can only set the
lock; a write to a read-only register, or to an address that is no register's, is ignored (R34, R57, R59). -/
def Obligations.LockedAndReadOnlyWritesAreIgnored : Prop :=
  ∀ (s : State) (r : HostReg) (a : Addr) (v : Word),
    (r.isConfig = true → s.cfgLock = true →
      s.hostWrite Config.params (BitVec.ofNat 13 r.addr) v = { s with
        err := { s.err with lockErr := true }
        viol := s.viol ++ if s.pend = none then [] else [.busyWrite] }) ∧
    s.hostWrite Config.params 0x008#13 v = { s with cfgLock := s.cfgLock || v[0] } ∧
    (r.isConfig = false → r.isOperand = false → r ∉ [.word .ctrl, .word .status, .word .command] →
      s.hostWrite Config.params (BitVec.ofNat 13 r.addr) v = s) ∧
    ((∀ r : HostReg, r.addr ≠ a.toNat) → s.hostWrite Config.params a v = s)

/-- With no command pending, writing the low and the high word of a 64-bit operand register, or of a configuration register
while unlocked, in either order, gives it that value; every other register reads as before, and nothing but the operand
registers and the configuration changes (R25, R34, R42, R43, R54). -/
def Obligations.SixtyFourBitWritesInEitherOrder : Prop :=
  ∀ (s : State) (x y : Reg64) (v : FX64), s.pend = none →
    (HostReg.lo x).isOperand = true ∨ ((HostReg.lo x).isConfig = true ∧ s.cfgLock = false) →
    let lo := BitVec.ofNat 13 (HostReg.lo x).addr
    let hi := BitVec.ofNat 13 (HostReg.hi x).addr
    let l := v.extractLsb' 0 32
    let h := v.extractLsb' 32 32
    let t := (s.hostWrite Config.params lo l).hostWrite Config.params hi h
    t = (s.hostWrite Config.params hi h).hostWrite Config.params lo l ∧
    t.read64 x = v ∧ (y ≠ x → t.read64 y = s.read64 y) ∧ (∀ r, t.read32 r = s.read32 r) ∧
    t = { s with regs := t.regs, cfg := t.cfg }

/-- With no command pending, a write to a control-frame register, locked or not, or to an unlocked CURVE register stores
its defined bits and changes nothing else; the register then reads those bits, reserved bits reading 0 (R39 to R42). -/
def Obligations.ReservedBitsReadZero : Prop :=
  ∀ (s : State) (i : Fin Config.nslot) (v : Word), s.pend = none →
    let sw := s.hostWrite Config.params 0x018#13 v
    let enc := s.hostWrite Config.params 0x01C#13 v
    let knob := s.hostWrite Config.params (BitVec.ofNat 13 (0x020 + 4 * i.val)) v
    let curve := s.hostWrite Config.params (BitVec.ofNat 13 (0x110 + 0x20 * i.val)) v
    let slot : Slot := { s.cfg.slots[i] with curve := if v[0] then .logarithmic else .linear }
    sw = { s with cf := { s.cf with switch := v.extractLsb' 0 3 } } ∧
    enc = { s with cf := { s.cf with enc := v.extractLsb' 0 16 } } ∧
    knob = { s with cf := { s.cf with knobs := s.cf.knobs.set i (v.extractLsb' 0 16) } } ∧
    (sw.readReg (.word .cfSwitch)).toNat = v.toNat % 2 ^ 3 ∧
    (enc.readReg (.word .cfEnc)).toNat = v.toNat % 2 ^ 16 ∧
    (knob.readReg (.word (.cfKnob i))).toNat = v.toNat % 2 ^ 16 ∧
    (s.cfgLock = false →
      curve = { s with cfg := { s.cfg with slots := s.cfg.slots.set i slot } } ∧
      (curve.readReg (.word (.slotCurve i))).toNat = v.toNat % 2)

/-- A host write to an operand or control-frame register, or to an unlocked configuration register, while a command is
pending takes effect as when idle, and records V_BUSY_WRITE (R59, R135). -/
def Obligations.BusyWriteTakesEffectAndIsRecorded : Prop :=
  ∀ (s : State) (r : HostReg) (v w : Word), s.pend = some w →
    r.isOperand = true ∨ (r.isConfig = true ∧ s.cfgLock = false) →
    let a := BitVec.ofNat 13 r.addr
    s.hostWrite Config.params a v =
      { ({ s with pend := none }.hostWrite Config.params a v) with pend := some w, viol := s.viol ++ [.busyWrite] }

/-- A host that, while IDLE, issues a command and waits (`X <command>`) sees exactly exec's effect, and its WAIT ends
with a STATUS whose BUSY is 0 (R61, R62, R74). The empty pick list lets the engine go first (log entry 4). -/
def Obligations.CommandThenWaitSeesItsEffect : Prop :=
  ∀ (i : Instr) (s t : State) (rest : List HostEvent), i.wellFormed = true → s.pend = none → s.sched = [] →
    s.inputs = cmdWait i ++ rest → exec i { s with pend := some (encode i), inputs := .wait :: rest } = .next t →
    core.run 3 s = .next { t with
      pend := none
      inputs := rest
      replies := (0x00C#13, { t with pend := none }.statusWord) :: t.replies } ∧
    ({ t with pend := none }.statusWord)[0] = false
end

