-- ==== Sys2Proof/Laws/Numbers.lean ====
section
/-! SUPPORT. The laws of the FX64 primitives: what each denotes as an integer, and when it does not saturate. -/

namespace Sys2Proof

theorem one_toInt : ONE.toInt = 2 ^ 32 := by decide

/-- NYQ of this hardware as a number (R86). -/
theorem nyq_eq : Config.params.nyq = 48000 * 2 ^ 31 := by decide

/-- CAP of this hardware as a number (R7, R8). -/
theorem cap_eq : Config.params.cap = 120000 := by decide

/-- fint(CAP) of this hardware as a number (R102). -/
theorem capLength_toInt : (fint Config.params.cap).toInt = 120000 * 2 ^ 32 := by decide

/-- The delay buffer has an entry, whatever the sample rate (R8). -/
theorem cap_pos (P : Params) : 0 < P.cap := by
  have := P.sampleRate_pos
  unfold Params.cap; omega

theorem fadd_toInt (a b : FX64) : (fadd a b).toInt = min (max (a.toInt + b.toInt) (-2 ^ 63)) (2 ^ 63 - 1) :=
  sat_toInt _

theorem fsub_toInt (a b : FX64) : (fsub a b).toInt = min (max (a.toInt - b.toInt) (-2 ^ 63)) (2 ^ 63 - 1) :=
  sat_toInt _

theorem fmul_toInt (a b : FX64) :
    (fmul a b).toInt = min (max (a.toInt * b.toInt / 2 ^ 32) (-2 ^ 63)) (2 ^ 63 - 1) :=
  sat_toInt _

theorem fint_toInt {n : Int} (h : -2 ^ 31 ≤ n) (h' : n ≤ 2 ^ 31 - 1) : (fint n).toInt = n * 2 ^ 32 :=
  sat_toInt_of_bounds (by omega) (by omega)

/-- The integer that fmul rounds to lies between 0 and `b` when the first factor is in [0, ONE]. -/
theorem mul_div_between {r b : Int} (h0 : 0 ≤ r) (h1 : r ≤ 2 ^ 32) :
    min 0 b ≤ r * b / 2 ^ 32 ∧ r * b / 2 ^ 32 ≤ max 0 b := by
  have hp : (0 : Int) < 2 ^ 32 := by decide
  rcases le_total 0 b with hb | hb
  · rw [min_eq_left hb, max_eq_right hb]
    exact ⟨Int.ediv_nonneg (mul_nonneg h0 hb) hp.le, Int.ediv_le_of_le_mul hp (by nlinarith)⟩
  · rw [min_eq_right hb, max_eq_left hb]
    refine ⟨(Int.le_ediv_iff_mul_le hp).2 (by nlinarith), ?_⟩
    exact Int.ediv_nonpos_of_nonpos_of_neg (by nlinarith) (by omega)

/-- A gain in [0, ONE] scales a value toward 0. -/
theorem fmul_gain_toInt (a b : FX64) (h0 : 0 ≤ a.toInt) (h1 : a.toInt ≤ ONE.toInt) :
    (fmul a b).toInt = a.toInt * b.toInt / 2 ^ 32 := by
  have h := mul_div_between (b := b.toInt) h0 (by rw [one_toInt] at h1; exact h1)
  have hl := toInt_lower b; have hu := toInt_upper b
  exact sat_toInt_of_bounds (by omega) (by omega)

@[simp] theorem fmul_zero_left (b : FX64) : fmul 0#64 b = 0#64 := by
  simp [fmul, sat]

@[simp] theorem fmul_zero_right (b : FX64) : fmul b 0#64 = 0#64 := by
  simp [fmul, sat]

theorem fmul_one_left (b : FX64) : fmul ONE b = b := by
  have : ONE.toInt * b.toInt / 2 ^ 32 = b.toInt := by
    rw [one_toInt]; exact Int.mul_ediv_cancel_left _ (by decide)
  rw [fmul, this, sat_toInt_self]

@[simp] theorem fadd_zero_left (a : FX64) : fadd 0#64 a = a := by
  simp [fadd]

@[simp] theorem fadd_zero_right (a : FX64) : fadd a 0#64 = a := by
  simp [fadd]

/-- A clamp to [lo, hi] lies in [lo, hi]. -/
theorem fclamp_bounds (a lo hi : FX64) (h : lo.toInt ≤ hi.toInt) :
    lo.toInt ≤ (fclamp a lo hi).toInt ∧ (fclamp a lo hi).toInt ≤ hi.toInt := by
  unfold fclamp; split
  · exact ⟨le_rfl, h⟩
  · split <;> omega

end Sys2Proof
end

