-- ==== Sys2Proof/Laws/State.lean ====
section
/-! SUPPORT. One lemma per field per update of State, so that no later proof unfolds a record update. -/

namespace Sys2Proof.Machine

section violate
variable (v : Violation) (s : State)

@[simp] theorem violate_pend : (State.violate v s).pend = s.pend := rfl
@[simp] theorem violate_regs : (State.violate v s).regs = s.regs := rfl
@[simp] theorem violate_outbuf : (State.violate v s).outbuf = s.outbuf := rfl
@[simp] theorem violate_cfgLock : (State.violate v s).cfgLock = s.cfgLock := rfl
@[simp] theorem violate_err : (State.violate v s).err = s.err := rfl
@[simp] theorem violate_cf : (State.violate v s).cf = s.cf := rfl
@[simp] theorem violate_cfg : (State.violate v s).cfg = s.cfg := rfl
@[simp] theorem violate_osc : (State.violate v s).osc = s.osc := rfl
@[simp] theorem violate_lfo : (State.violate v s).lfo = s.lfo := rfl
@[simp] theorem violate_svf : (State.violate v s).svf = s.svf := rfl
@[simp] theorem violate_dly : (State.violate v s).dly = s.dly := rfl
@[simp] theorem violate_snap : (State.violate v s).snap = s.snap := rfl
@[simp] theorem violate_disp : (State.violate v s).disp = s.disp := rfl
@[simp] theorem violate_ack : (State.violate v s).ack = s.ack := rfl
@[simp] theorem violate_viol : (State.violate v s).viol = s.viol ++ [v] := rfl
@[simp] theorem violate_draws : (State.violate v s).draws = s.draws := rfl
@[simp] theorem violate_inputs : (State.violate v s).inputs = s.inputs := rfl
@[simp] theorem violate_sched : (State.violate v s).sched = s.sched := rfl
@[simp] theorem violate_replies : (State.violate v s).replies = s.replies := rfl

end violate

section setRes0
variable (v : FX64) (s : State)

@[simp] theorem setRes0_pend : (State.setRes0 v s).pend = s.pend := rfl
@[simp] theorem setRes0_regs : (State.setRes0 v s).regs = { s.regs with res0 := v } := rfl
@[simp] theorem setRes0_outbuf : (State.setRes0 v s).outbuf = s.outbuf := rfl
@[simp] theorem setRes0_cfgLock : (State.setRes0 v s).cfgLock = s.cfgLock := rfl
@[simp] theorem setRes0_err : (State.setRes0 v s).err = s.err := rfl
@[simp] theorem setRes0_cf : (State.setRes0 v s).cf = s.cf := rfl
@[simp] theorem setRes0_cfg : (State.setRes0 v s).cfg = s.cfg := rfl
@[simp] theorem setRes0_osc : (State.setRes0 v s).osc = s.osc := rfl
@[simp] theorem setRes0_lfo : (State.setRes0 v s).lfo = s.lfo := rfl
@[simp] theorem setRes0_svf : (State.setRes0 v s).svf = s.svf := rfl
@[simp] theorem setRes0_dly : (State.setRes0 v s).dly = s.dly := rfl
@[simp] theorem setRes0_snap : (State.setRes0 v s).snap = s.snap := rfl
@[simp] theorem setRes0_disp : (State.setRes0 v s).disp = s.disp := rfl
@[simp] theorem setRes0_ack : (State.setRes0 v s).ack = s.ack := rfl
@[simp] theorem setRes0_viol : (State.setRes0 v s).viol = s.viol := rfl
@[simp] theorem setRes0_draws : (State.setRes0 v s).draws = s.draws := rfl
@[simp] theorem setRes0_inputs : (State.setRes0 v s).inputs = s.inputs := rfl
@[simp] theorem setRes0_sched : (State.setRes0 v s).sched = s.sched := rfl
@[simp] theorem setRes0_replies : (State.setRes0 v s).replies = s.replies := rfl

end setRes0

section setRes1
variable (v : FX64) (s : State)

@[simp] theorem setRes1_pend : (State.setRes1 v s).pend = s.pend := rfl
@[simp] theorem setRes1_regs : (State.setRes1 v s).regs = { s.regs with res1 := v } := rfl
@[simp] theorem setRes1_outbuf : (State.setRes1 v s).outbuf = s.outbuf := rfl
@[simp] theorem setRes1_cfgLock : (State.setRes1 v s).cfgLock = s.cfgLock := rfl
@[simp] theorem setRes1_err : (State.setRes1 v s).err = s.err := rfl
@[simp] theorem setRes1_cf : (State.setRes1 v s).cf = s.cf := rfl
@[simp] theorem setRes1_cfg : (State.setRes1 v s).cfg = s.cfg := rfl
@[simp] theorem setRes1_osc : (State.setRes1 v s).osc = s.osc := rfl
@[simp] theorem setRes1_lfo : (State.setRes1 v s).lfo = s.lfo := rfl
@[simp] theorem setRes1_svf : (State.setRes1 v s).svf = s.svf := rfl
@[simp] theorem setRes1_dly : (State.setRes1 v s).dly = s.dly := rfl
@[simp] theorem setRes1_snap : (State.setRes1 v s).snap = s.snap := rfl
@[simp] theorem setRes1_disp : (State.setRes1 v s).disp = s.disp := rfl
@[simp] theorem setRes1_ack : (State.setRes1 v s).ack = s.ack := rfl
@[simp] theorem setRes1_viol : (State.setRes1 v s).viol = s.viol := rfl
@[simp] theorem setRes1_draws : (State.setRes1 v s).draws = s.draws := rfl
@[simp] theorem setRes1_inputs : (State.setRes1 v s).inputs = s.inputs := rfl
@[simp] theorem setRes1_sched : (State.setRes1 v s).sched = s.sched := rfl
@[simp] theorem setRes1_replies : (State.setRes1 v s).replies = s.replies := rfl

end setRes1

section setOut
variable (y : FX64) (s : State)

@[simp] theorem setOut_pend : (State.setOut y s).pend = s.pend := rfl
@[simp] theorem setOut_regs : (State.setOut y s).regs = { s.regs with outL := y, outR := y } := rfl
@[simp] theorem setOut_outbuf : (State.setOut y s).outbuf = s.outbuf := rfl
@[simp] theorem setOut_cfgLock : (State.setOut y s).cfgLock = s.cfgLock := rfl
@[simp] theorem setOut_err : (State.setOut y s).err = s.err := rfl
@[simp] theorem setOut_cf : (State.setOut y s).cf = s.cf := rfl
@[simp] theorem setOut_cfg : (State.setOut y s).cfg = s.cfg := rfl
@[simp] theorem setOut_osc : (State.setOut y s).osc = s.osc := rfl
@[simp] theorem setOut_lfo : (State.setOut y s).lfo = s.lfo := rfl
@[simp] theorem setOut_svf : (State.setOut y s).svf = s.svf := rfl
@[simp] theorem setOut_dly : (State.setOut y s).dly = s.dly := rfl
@[simp] theorem setOut_snap : (State.setOut y s).snap = s.snap := rfl
@[simp] theorem setOut_disp : (State.setOut y s).disp = s.disp := rfl
@[simp] theorem setOut_ack : (State.setOut y s).ack = s.ack := rfl
@[simp] theorem setOut_viol : (State.setOut y s).viol = s.viol := rfl
@[simp] theorem setOut_draws : (State.setOut y s).draws = s.draws := rfl
@[simp] theorem setOut_inputs : (State.setOut y s).inputs = s.inputs := rfl
@[simp] theorem setOut_sched : (State.setOut y s).sched = s.sched := rfl
@[simp] theorem setOut_replies : (State.setOut y s).replies = s.replies := rfl

end setOut

section writeOutbuf
variable (k : Nat) (y : FX64) (s : State)

@[simp] theorem writeOutbuf_pend : (State.writeOutbuf k y s).pend = s.pend := rfl
@[simp] theorem writeOutbuf_regs : (State.writeOutbuf k y s).regs = s.regs := rfl
@[simp] theorem writeOutbuf_outbuf : (State.writeOutbuf k y s).outbuf = (s.outbuf.write (Config.nch * k) y).write (Config.nch * k + 1) y := rfl
@[simp] theorem writeOutbuf_cfgLock : (State.writeOutbuf k y s).cfgLock = s.cfgLock := rfl
@[simp] theorem writeOutbuf_err : (State.writeOutbuf k y s).err = s.err := rfl
@[simp] theorem writeOutbuf_cf : (State.writeOutbuf k y s).cf = s.cf := rfl
@[simp] theorem writeOutbuf_cfg : (State.writeOutbuf k y s).cfg = s.cfg := rfl
@[simp] theorem writeOutbuf_osc : (State.writeOutbuf k y s).osc = s.osc := rfl
@[simp] theorem writeOutbuf_lfo : (State.writeOutbuf k y s).lfo = s.lfo := rfl
@[simp] theorem writeOutbuf_svf : (State.writeOutbuf k y s).svf = s.svf := rfl
@[simp] theorem writeOutbuf_dly : (State.writeOutbuf k y s).dly = s.dly := rfl
@[simp] theorem writeOutbuf_snap : (State.writeOutbuf k y s).snap = s.snap := rfl
@[simp] theorem writeOutbuf_disp : (State.writeOutbuf k y s).disp = s.disp := rfl
@[simp] theorem writeOutbuf_ack : (State.writeOutbuf k y s).ack = s.ack := rfl
@[simp] theorem writeOutbuf_viol : (State.writeOutbuf k y s).viol = s.viol := rfl
@[simp] theorem writeOutbuf_draws : (State.writeOutbuf k y s).draws = s.draws := rfl
@[simp] theorem writeOutbuf_inputs : (State.writeOutbuf k y s).inputs = s.inputs := rfl
@[simp] theorem writeOutbuf_sched : (State.writeOutbuf k y s).sched = s.sched := rfl
@[simp] theorem writeOutbuf_replies : (State.writeOutbuf k y s).replies = s.replies := rfl

end writeOutbuf

section setOvr
variable (s : State)

@[simp] theorem setOvr_pend : (State.setOvr s).pend = s.pend := rfl
@[simp] theorem setOvr_regs : (State.setOvr s).regs = s.regs := rfl
@[simp] theorem setOvr_outbuf : (State.setOvr s).outbuf = s.outbuf := rfl
@[simp] theorem setOvr_cfgLock : (State.setOvr s).cfgLock = s.cfgLock := rfl
@[simp] theorem setOvr_err : (State.setOvr s).err = { s.err with ovr := true } := rfl
@[simp] theorem setOvr_cf : (State.setOvr s).cf = s.cf := rfl
@[simp] theorem setOvr_cfg : (State.setOvr s).cfg = s.cfg := rfl
@[simp] theorem setOvr_osc : (State.setOvr s).osc = s.osc := rfl
@[simp] theorem setOvr_lfo : (State.setOvr s).lfo = s.lfo := rfl
@[simp] theorem setOvr_svf : (State.setOvr s).svf = s.svf := rfl
@[simp] theorem setOvr_dly : (State.setOvr s).dly = s.dly := rfl
@[simp] theorem setOvr_snap : (State.setOvr s).snap = s.snap := rfl
@[simp] theorem setOvr_disp : (State.setOvr s).disp = s.disp := rfl
@[simp] theorem setOvr_ack : (State.setOvr s).ack = s.ack := rfl
@[simp] theorem setOvr_viol : (State.setOvr s).viol = s.viol := rfl
@[simp] theorem setOvr_draws : (State.setOvr s).draws = s.draws := rfl
@[simp] theorem setOvr_inputs : (State.setOvr s).inputs = s.inputs := rfl
@[simp] theorem setOvr_sched : (State.setOvr s).sched = s.sched := rfl
@[simp] theorem setOvr_replies : (State.setOvr s).replies = s.replies := rfl

end setOvr

section setLockErr
variable (s : State)

@[simp] theorem setLockErr_pend : (State.setLockErr s).pend = s.pend := rfl
@[simp] theorem setLockErr_regs : (State.setLockErr s).regs = s.regs := rfl
@[simp] theorem setLockErr_outbuf : (State.setLockErr s).outbuf = s.outbuf := rfl
@[simp] theorem setLockErr_cfgLock : (State.setLockErr s).cfgLock = s.cfgLock := rfl
@[simp] theorem setLockErr_err : (State.setLockErr s).err = { s.err with lockErr := true } := rfl
@[simp] theorem setLockErr_cf : (State.setLockErr s).cf = s.cf := rfl
@[simp] theorem setLockErr_cfg : (State.setLockErr s).cfg = s.cfg := rfl
@[simp] theorem setLockErr_osc : (State.setLockErr s).osc = s.osc := rfl
@[simp] theorem setLockErr_lfo : (State.setLockErr s).lfo = s.lfo := rfl
@[simp] theorem setLockErr_svf : (State.setLockErr s).svf = s.svf := rfl
@[simp] theorem setLockErr_dly : (State.setLockErr s).dly = s.dly := rfl
@[simp] theorem setLockErr_snap : (State.setLockErr s).snap = s.snap := rfl
@[simp] theorem setLockErr_disp : (State.setLockErr s).disp = s.disp := rfl
@[simp] theorem setLockErr_ack : (State.setLockErr s).ack = s.ack := rfl
@[simp] theorem setLockErr_viol : (State.setLockErr s).viol = s.viol := rfl
@[simp] theorem setLockErr_draws : (State.setLockErr s).draws = s.draws := rfl
@[simp] theorem setLockErr_inputs : (State.setLockErr s).inputs = s.inputs := rfl
@[simp] theorem setLockErr_sched : (State.setLockErr s).sched = s.sched := rfl
@[simp] theorem setLockErr_replies : (State.setLockErr s).replies = s.replies := rfl

end setLockErr

section writeCtrl
variable (v : Word) (s : State)

@[simp] theorem writeCtrl_pend : (State.writeCtrl v s).pend = s.pend := rfl
@[simp] theorem writeCtrl_regs : (State.writeCtrl v s).regs = s.regs := rfl
@[simp] theorem writeCtrl_outbuf : (State.writeCtrl v s).outbuf = s.outbuf := rfl
@[simp] theorem writeCtrl_cfgLock : (State.writeCtrl v s).cfgLock = (s.cfgLock || v[0]) := rfl
@[simp] theorem writeCtrl_err : (State.writeCtrl v s).err = s.err := rfl
@[simp] theorem writeCtrl_cf : (State.writeCtrl v s).cf = s.cf := rfl
@[simp] theorem writeCtrl_cfg : (State.writeCtrl v s).cfg = s.cfg := rfl
@[simp] theorem writeCtrl_osc : (State.writeCtrl v s).osc = s.osc := rfl
@[simp] theorem writeCtrl_lfo : (State.writeCtrl v s).lfo = s.lfo := rfl
@[simp] theorem writeCtrl_svf : (State.writeCtrl v s).svf = s.svf := rfl
@[simp] theorem writeCtrl_dly : (State.writeCtrl v s).dly = s.dly := rfl
@[simp] theorem writeCtrl_snap : (State.writeCtrl v s).snap = s.snap := rfl
@[simp] theorem writeCtrl_disp : (State.writeCtrl v s).disp = s.disp := rfl
@[simp] theorem writeCtrl_ack : (State.writeCtrl v s).ack = s.ack := rfl
@[simp] theorem writeCtrl_viol : (State.writeCtrl v s).viol = s.viol := rfl
@[simp] theorem writeCtrl_draws : (State.writeCtrl v s).draws = s.draws := rfl
@[simp] theorem writeCtrl_inputs : (State.writeCtrl v s).inputs = s.inputs := rfl
@[simp] theorem writeCtrl_sched : (State.writeCtrl v s).sched = s.sched := rfl
@[simp] theorem writeCtrl_replies : (State.writeCtrl v s).replies = s.replies := rfl

end writeCtrl

section writeStatus
variable (v : Word) (s : State)

@[simp] theorem writeStatus_pend : (State.writeStatus v s).pend = s.pend := rfl
@[simp] theorem writeStatus_regs : (State.writeStatus v s).regs = s.regs := rfl
@[simp] theorem writeStatus_outbuf : (State.writeStatus v s).outbuf = s.outbuf := rfl
@[simp] theorem writeStatus_cfgLock : (State.writeStatus v s).cfgLock = s.cfgLock := rfl
@[simp] theorem writeStatus_cf : (State.writeStatus v s).cf = s.cf := rfl
@[simp] theorem writeStatus_cfg : (State.writeStatus v s).cfg = s.cfg := rfl
@[simp] theorem writeStatus_osc : (State.writeStatus v s).osc = s.osc := rfl
@[simp] theorem writeStatus_lfo : (State.writeStatus v s).lfo = s.lfo := rfl
@[simp] theorem writeStatus_svf : (State.writeStatus v s).svf = s.svf := rfl
@[simp] theorem writeStatus_dly : (State.writeStatus v s).dly = s.dly := rfl
@[simp] theorem writeStatus_snap : (State.writeStatus v s).snap = s.snap := rfl
@[simp] theorem writeStatus_disp : (State.writeStatus v s).disp = s.disp := rfl
@[simp] theorem writeStatus_ack : (State.writeStatus v s).ack = s.ack := rfl
@[simp] theorem writeStatus_viol : (State.writeStatus v s).viol = s.viol := rfl
@[simp] theorem writeStatus_draws : (State.writeStatus v s).draws = s.draws := rfl
@[simp] theorem writeStatus_inputs : (State.writeStatus v s).inputs = s.inputs := rfl
@[simp] theorem writeStatus_sched : (State.writeStatus v s).sched = s.sched := rfl
@[simp] theorem writeStatus_replies : (State.writeStatus v s).replies = s.replies := rfl

end writeStatus

section recordCmdError
variable (c : CmdError) (w : Word) (s : State)

@[simp] theorem recordCmdError_pend : (State.recordCmdError c w s).pend = s.pend := rfl
@[simp] theorem recordCmdError_regs : (State.recordCmdError c w s).regs = s.regs := rfl
@[simp] theorem recordCmdError_outbuf : (State.recordCmdError c w s).outbuf = s.outbuf := rfl
@[simp] theorem recordCmdError_cfgLock : (State.recordCmdError c w s).cfgLock = s.cfgLock := rfl
@[simp] theorem recordCmdError_cf : (State.recordCmdError c w s).cf = s.cf := rfl
@[simp] theorem recordCmdError_cfg : (State.recordCmdError c w s).cfg = s.cfg := rfl
@[simp] theorem recordCmdError_osc : (State.recordCmdError c w s).osc = s.osc := rfl
@[simp] theorem recordCmdError_lfo : (State.recordCmdError c w s).lfo = s.lfo := rfl
@[simp] theorem recordCmdError_svf : (State.recordCmdError c w s).svf = s.svf := rfl
@[simp] theorem recordCmdError_dly : (State.recordCmdError c w s).dly = s.dly := rfl
@[simp] theorem recordCmdError_snap : (State.recordCmdError c w s).snap = s.snap := rfl
@[simp] theorem recordCmdError_disp : (State.recordCmdError c w s).disp = s.disp := rfl
@[simp] theorem recordCmdError_ack : (State.recordCmdError c w s).ack = s.ack := rfl
@[simp] theorem recordCmdError_viol : (State.recordCmdError c w s).viol = s.viol := rfl
@[simp] theorem recordCmdError_draws : (State.recordCmdError c w s).draws = s.draws := rfl
@[simp] theorem recordCmdError_inputs : (State.recordCmdError c w s).inputs = s.inputs := rfl
@[simp] theorem recordCmdError_sched : (State.recordCmdError c w s).sched = s.sched := rfl
@[simp] theorem recordCmdError_replies : (State.recordCmdError c w s).replies = s.replies := rfl

end recordCmdError

section nextInput
variable (s : State)

@[simp] theorem nextInput_pend : (State.nextInput s).pend = s.pend := rfl
@[simp] theorem nextInput_regs : (State.nextInput s).regs = s.regs := rfl
@[simp] theorem nextInput_outbuf : (State.nextInput s).outbuf = s.outbuf := rfl
@[simp] theorem nextInput_cfgLock : (State.nextInput s).cfgLock = s.cfgLock := rfl
@[simp] theorem nextInput_err : (State.nextInput s).err = s.err := rfl
@[simp] theorem nextInput_cf : (State.nextInput s).cf = s.cf := rfl
@[simp] theorem nextInput_cfg : (State.nextInput s).cfg = s.cfg := rfl
@[simp] theorem nextInput_osc : (State.nextInput s).osc = s.osc := rfl
@[simp] theorem nextInput_lfo : (State.nextInput s).lfo = s.lfo := rfl
@[simp] theorem nextInput_svf : (State.nextInput s).svf = s.svf := rfl
@[simp] theorem nextInput_dly : (State.nextInput s).dly = s.dly := rfl
@[simp] theorem nextInput_snap : (State.nextInput s).snap = s.snap := rfl
@[simp] theorem nextInput_disp : (State.nextInput s).disp = s.disp := rfl
@[simp] theorem nextInput_ack : (State.nextInput s).ack = s.ack := rfl
@[simp] theorem nextInput_viol : (State.nextInput s).viol = s.viol := rfl
@[simp] theorem nextInput_draws : (State.nextInput s).draws = s.draws := rfl
@[simp] theorem nextInput_inputs : (State.nextInput s).inputs = s.inputs.tail := rfl
@[simp] theorem nextInput_sched : (State.nextInput s).sched = s.sched := rfl
@[simp] theorem nextInput_replies : (State.nextInput s).replies = s.replies := rfl

end nextInput

section usePick
variable (s : State)

@[simp] theorem usePick_pend : (State.usePick s).pend = s.pend := rfl
@[simp] theorem usePick_regs : (State.usePick s).regs = s.regs := rfl
@[simp] theorem usePick_outbuf : (State.usePick s).outbuf = s.outbuf := rfl
@[simp] theorem usePick_cfgLock : (State.usePick s).cfgLock = s.cfgLock := rfl
@[simp] theorem usePick_err : (State.usePick s).err = s.err := rfl
@[simp] theorem usePick_cf : (State.usePick s).cf = s.cf := rfl
@[simp] theorem usePick_cfg : (State.usePick s).cfg = s.cfg := rfl
@[simp] theorem usePick_osc : (State.usePick s).osc = s.osc := rfl
@[simp] theorem usePick_lfo : (State.usePick s).lfo = s.lfo := rfl
@[simp] theorem usePick_svf : (State.usePick s).svf = s.svf := rfl
@[simp] theorem usePick_dly : (State.usePick s).dly = s.dly := rfl
@[simp] theorem usePick_snap : (State.usePick s).snap = s.snap := rfl
@[simp] theorem usePick_disp : (State.usePick s).disp = s.disp := rfl
@[simp] theorem usePick_ack : (State.usePick s).ack = s.ack := rfl
@[simp] theorem usePick_viol : (State.usePick s).viol = s.viol := rfl
@[simp] theorem usePick_draws : (State.usePick s).draws = s.draws := rfl
@[simp] theorem usePick_inputs : (State.usePick s).inputs = s.inputs := rfl
@[simp] theorem usePick_sched : (State.usePick s).sched = s.sched.tail := rfl
@[simp] theorem usePick_replies : (State.usePick s).replies = s.replies := rfl

end usePick

section retire
variable (s : State)

@[simp] theorem retire_pend : (State.retire s).pend = none := rfl
@[simp] theorem retire_regs : (State.retire s).regs = s.regs := rfl
@[simp] theorem retire_outbuf : (State.retire s).outbuf = s.outbuf := rfl
@[simp] theorem retire_cfgLock : (State.retire s).cfgLock = s.cfgLock := rfl
@[simp] theorem retire_err : (State.retire s).err = s.err := rfl
@[simp] theorem retire_cf : (State.retire s).cf = s.cf := rfl
@[simp] theorem retire_cfg : (State.retire s).cfg = s.cfg := rfl
@[simp] theorem retire_osc : (State.retire s).osc = s.osc := rfl
@[simp] theorem retire_lfo : (State.retire s).lfo = s.lfo := rfl
@[simp] theorem retire_svf : (State.retire s).svf = s.svf := rfl
@[simp] theorem retire_dly : (State.retire s).dly = s.dly := rfl
@[simp] theorem retire_snap : (State.retire s).snap = s.snap := rfl
@[simp] theorem retire_disp : (State.retire s).disp = s.disp := rfl
@[simp] theorem retire_ack : (State.retire s).ack = s.ack := rfl
@[simp] theorem retire_viol : (State.retire s).viol = s.viol := rfl
@[simp] theorem retire_draws : (State.retire s).draws = s.draws := rfl
@[simp] theorem retire_inputs : (State.retire s).inputs = s.inputs := rfl
@[simp] theorem retire_sched : (State.retire s).sched = s.sched.tail := rfl
@[simp] theorem retire_replies : (State.retire s).replies = s.replies := rfl

end retire

section reply
variable (a : Addr) (v : Word) (s : State)

@[simp] theorem reply_pend : (State.reply a v s).pend = s.pend := rfl
@[simp] theorem reply_regs : (State.reply a v s).regs = s.regs := rfl
@[simp] theorem reply_outbuf : (State.reply a v s).outbuf = s.outbuf := rfl
@[simp] theorem reply_cfgLock : (State.reply a v s).cfgLock = s.cfgLock := rfl
@[simp] theorem reply_err : (State.reply a v s).err = s.err := rfl
@[simp] theorem reply_cf : (State.reply a v s).cf = s.cf := rfl
@[simp] theorem reply_cfg : (State.reply a v s).cfg = s.cfg := rfl
@[simp] theorem reply_osc : (State.reply a v s).osc = s.osc := rfl
@[simp] theorem reply_lfo : (State.reply a v s).lfo = s.lfo := rfl
@[simp] theorem reply_svf : (State.reply a v s).svf = s.svf := rfl
@[simp] theorem reply_dly : (State.reply a v s).dly = s.dly := rfl
@[simp] theorem reply_snap : (State.reply a v s).snap = s.snap := rfl
@[simp] theorem reply_disp : (State.reply a v s).disp = s.disp := rfl
@[simp] theorem reply_ack : (State.reply a v s).ack = s.ack := rfl
@[simp] theorem reply_viol : (State.reply a v s).viol = s.viol := rfl
@[simp] theorem reply_draws : (State.reply a v s).draws = s.draws := rfl
@[simp] theorem reply_inputs : (State.reply a v s).inputs = s.inputs := rfl
@[simp] theorem reply_sched : (State.reply a v s).sched = s.sched := rfl
@[simp] theorem reply_replies : (State.reply a v s).replies = (a, v) :: s.replies := rfl

end reply

section delaySmooth
variable (P : Params) (s : State)

@[simp] theorem delaySmooth_pend : (delaySmooth P s).pend = s.pend := rfl
@[simp] theorem delaySmooth_regs : (delaySmooth P s).regs = s.regs := rfl
@[simp] theorem delaySmooth_outbuf : (delaySmooth P s).outbuf = s.outbuf := rfl
@[simp] theorem delaySmooth_cfgLock : (delaySmooth P s).cfgLock = s.cfgLock := rfl
@[simp] theorem delaySmooth_err : (delaySmooth P s).err = s.err := rfl
@[simp] theorem delaySmooth_cf : (delaySmooth P s).cf = s.cf := rfl
@[simp] theorem delaySmooth_cfg : (delaySmooth P s).cfg = s.cfg := rfl
@[simp] theorem delaySmooth_osc : (delaySmooth P s).osc = s.osc := rfl
@[simp] theorem delaySmooth_lfo : (delaySmooth P s).lfo = s.lfo := rfl
@[simp] theorem delaySmooth_svf : (delaySmooth P s).svf = s.svf := rfl
@[simp] theorem delaySmooth_dly : (delaySmooth P s).dly = { s.dly with cur := smooth P s.dly.cur s.dly.tgt } := rfl
@[simp] theorem delaySmooth_snap : (delaySmooth P s).snap = s.snap := rfl
@[simp] theorem delaySmooth_disp : (delaySmooth P s).disp = s.disp := rfl
@[simp] theorem delaySmooth_ack : (delaySmooth P s).ack = s.ack := rfl
@[simp] theorem delaySmooth_viol : (delaySmooth P s).viol = s.viol := rfl
@[simp] theorem delaySmooth_draws : (delaySmooth P s).draws = s.draws := rfl
@[simp] theorem delaySmooth_inputs : (delaySmooth P s).inputs = s.inputs := rfl
@[simp] theorem delaySmooth_sched : (delaySmooth P s).sched = s.sched := rfl
@[simp] theorem delaySmooth_replies : (delaySmooth P s).replies = s.replies := rfl

end delaySmooth

section filterSetMode
variable (m : FilterMode) (s : State)

@[simp] theorem filterSetMode_pend : (filterSetMode m s).pend = s.pend := rfl
@[simp] theorem filterSetMode_regs : (filterSetMode m s).regs = s.regs := rfl
@[simp] theorem filterSetMode_outbuf : (filterSetMode m s).outbuf = s.outbuf := rfl
@[simp] theorem filterSetMode_cfgLock : (filterSetMode m s).cfgLock = s.cfgLock := rfl
@[simp] theorem filterSetMode_err : (filterSetMode m s).err = s.err := rfl
@[simp] theorem filterSetMode_cf : (filterSetMode m s).cf = s.cf := rfl
@[simp] theorem filterSetMode_cfg : (filterSetMode m s).cfg = s.cfg := rfl
@[simp] theorem filterSetMode_osc : (filterSetMode m s).osc = s.osc := rfl
@[simp] theorem filterSetMode_lfo : (filterSetMode m s).lfo = s.lfo := rfl
@[simp] theorem filterSetMode_svf : (filterSetMode m s).svf = { s.svf with mode := m } := rfl
@[simp] theorem filterSetMode_dly : (filterSetMode m s).dly = s.dly := rfl
@[simp] theorem filterSetMode_snap : (filterSetMode m s).snap = s.snap := rfl
@[simp] theorem filterSetMode_disp : (filterSetMode m s).disp = s.disp := rfl
@[simp] theorem filterSetMode_ack : (filterSetMode m s).ack = s.ack := rfl
@[simp] theorem filterSetMode_viol : (filterSetMode m s).viol = s.viol := rfl
@[simp] theorem filterSetMode_draws : (filterSetMode m s).draws = s.draws := rfl
@[simp] theorem filterSetMode_inputs : (filterSetMode m s).inputs = s.inputs := rfl
@[simp] theorem filterSetMode_sched : (filterSetMode m s).sched = s.sched := rfl
@[simp] theorem filterSetMode_replies : (filterSetMode m s).replies = s.replies := rfl

end filterSetMode

section filterSetFreq
variable (f : FX64) (s : State)

@[simp] theorem filterSetFreq_pend : (filterSetFreq f s).pend = s.pend := rfl
@[simp] theorem filterSetFreq_regs : (filterSetFreq f s).regs = s.regs := rfl
@[simp] theorem filterSetFreq_outbuf : (filterSetFreq f s).outbuf = s.outbuf := rfl
@[simp] theorem filterSetFreq_cfgLock : (filterSetFreq f s).cfgLock = s.cfgLock := rfl
@[simp] theorem filterSetFreq_err : (filterSetFreq f s).err = s.err := rfl
@[simp] theorem filterSetFreq_cf : (filterSetFreq f s).cf = s.cf := rfl
@[simp] theorem filterSetFreq_cfg : (filterSetFreq f s).cfg = s.cfg := rfl
@[simp] theorem filterSetFreq_osc : (filterSetFreq f s).osc = s.osc := rfl
@[simp] theorem filterSetFreq_lfo : (filterSetFreq f s).lfo = s.lfo := rfl
@[simp] theorem filterSetFreq_svf : (filterSetFreq f s).svf = { s.svf with fc := f } := rfl
@[simp] theorem filterSetFreq_dly : (filterSetFreq f s).dly = s.dly := rfl
@[simp] theorem filterSetFreq_snap : (filterSetFreq f s).snap = s.snap := rfl
@[simp] theorem filterSetFreq_disp : (filterSetFreq f s).disp = s.disp := rfl
@[simp] theorem filterSetFreq_ack : (filterSetFreq f s).ack = s.ack := rfl
@[simp] theorem filterSetFreq_viol : (filterSetFreq f s).viol = s.viol := rfl
@[simp] theorem filterSetFreq_draws : (filterSetFreq f s).draws = s.draws := rfl
@[simp] theorem filterSetFreq_inputs : (filterSetFreq f s).inputs = s.inputs := rfl
@[simp] theorem filterSetFreq_sched : (filterSetFreq f s).sched = s.sched := rfl
@[simp] theorem filterSetFreq_replies : (filterSetFreq f s).replies = s.replies := rfl

end filterSetFreq

section volumeStep
variable (P : Params) (inc : Int) (s : State)

@[simp] theorem volumeStep_pend : (volumeStep P inc s).pend = s.pend := rfl
@[simp] theorem volumeStep_regs : (volumeStep P inc s).regs = s.regs := rfl
@[simp] theorem volumeStep_outbuf : (volumeStep P inc s).outbuf = s.outbuf := rfl
@[simp] theorem volumeStep_cfgLock : (volumeStep P inc s).cfgLock = s.cfgLock := rfl
@[simp] theorem volumeStep_err : (volumeStep P inc s).err = s.err := rfl
@[simp] theorem volumeStep_cf : (volumeStep P inc s).cf = s.cf := rfl
@[simp] theorem volumeStep_cfg : (volumeStep P inc s).cfg = s.cfg := rfl
@[simp] theorem volumeStep_osc : (volumeStep P inc s).osc = s.osc := rfl
@[simp] theorem volumeStep_lfo : (volumeStep P inc s).lfo = s.lfo := rfl
@[simp] theorem volumeStep_svf : (volumeStep P inc s).svf = s.svf := rfl
@[simp] theorem volumeStep_dly : (volumeStep P inc s).dly = s.dly := rfl
@[simp] theorem volumeStep_snap : (volumeStep P inc s).snap = { s.snap with volume := volumeAfter P inc s.snap.volume } := rfl
@[simp] theorem volumeStep_disp : (volumeStep P inc s).disp = display (volumeAfter P inc s.snap.volume) := rfl
@[simp] theorem volumeStep_ack : (volumeStep P inc s).ack = decide (inc = 1) := rfl
@[simp] theorem volumeStep_viol : (volumeStep P inc s).viol = s.viol := rfl
@[simp] theorem volumeStep_draws : (volumeStep P inc s).draws = s.draws := rfl
@[simp] theorem volumeStep_inputs : (volumeStep P inc s).inputs = s.inputs := rfl
@[simp] theorem volumeStep_sched : (volumeStep P inc s).sched = s.sched := rfl
@[simp] theorem volumeStep_replies : (volumeStep P inc s).replies = s.replies := rfl

end volumeStep

section require
variable (ok : Bool) (v : Violation) (s : State)

@[simp] theorem require_pend : (State.require ok v s).pend = s.pend := by
  unfold State.require; split <;> rfl
@[simp] theorem require_regs : (State.require ok v s).regs = s.regs := by
  unfold State.require; split <;> rfl
@[simp] theorem require_outbuf : (State.require ok v s).outbuf = s.outbuf := by
  unfold State.require; split <;> rfl
@[simp] theorem require_cfgLock : (State.require ok v s).cfgLock = s.cfgLock := by
  unfold State.require; split <;> rfl
@[simp] theorem require_err : (State.require ok v s).err = s.err := by
  unfold State.require; split <;> rfl
@[simp] theorem require_cf : (State.require ok v s).cf = s.cf := by
  unfold State.require; split <;> rfl
@[simp] theorem require_cfg : (State.require ok v s).cfg = s.cfg := by
  unfold State.require; split <;> rfl
@[simp] theorem require_osc : (State.require ok v s).osc = s.osc := by
  unfold State.require; split <;> rfl
@[simp] theorem require_lfo : (State.require ok v s).lfo = s.lfo := by
  unfold State.require; split <;> rfl
@[simp] theorem require_svf : (State.require ok v s).svf = s.svf := by
  unfold State.require; split <;> rfl
@[simp] theorem require_dly : (State.require ok v s).dly = s.dly := by
  unfold State.require; split <;> rfl
@[simp] theorem require_snap : (State.require ok v s).snap = s.snap := by
  unfold State.require; split <;> rfl
@[simp] theorem require_disp : (State.require ok v s).disp = s.disp := by
  unfold State.require; split <;> rfl
@[simp] theorem require_ack : (State.require ok v s).ack = s.ack := by
  unfold State.require; split <;> rfl
theorem require_viol : (State.require ok v s).viol = s.viol ++ if ok then [] else [v] := by
  unfold State.require; split <;> simp
@[simp] theorem require_draws : (State.require ok v s).draws = s.draws := by
  unfold State.require; split <;> rfl
@[simp] theorem require_inputs : (State.require ok v s).inputs = s.inputs := by
  unfold State.require; split <;> rfl
@[simp] theorem require_sched : (State.require ok v s).sched = s.sched := by
  unfold State.require; split <;> rfl
@[simp] theorem require_replies : (State.require ok v s).replies = s.replies := by
  unfold State.require; split <;> rfl

theorem require_true : State.require true v s = s := rfl

/-- The violation record is all that `require` can change. -/
theorem require_eq : State.require ok v s = { s with viol := s.viol ++ if ok then [] else [v] } := by
  unfold State.require; split <;> simp [State.violate]


end require

section setOscillator
variable (k : OscId) (o : Oscillator) (s : State)

@[simp] theorem setOscillator_pend : (s.setOscillator k o).pend = s.pend := by
  cases k <;> rfl
@[simp] theorem setOscillator_regs : (s.setOscillator k o).regs = s.regs := by
  cases k <;> rfl
@[simp] theorem setOscillator_outbuf : (s.setOscillator k o).outbuf = s.outbuf := by
  cases k <;> rfl
@[simp] theorem setOscillator_cfgLock : (s.setOscillator k o).cfgLock = s.cfgLock := by
  cases k <;> rfl
@[simp] theorem setOscillator_err : (s.setOscillator k o).err = s.err := by
  cases k <;> rfl
@[simp] theorem setOscillator_cf : (s.setOscillator k o).cf = s.cf := by
  cases k <;> rfl
@[simp] theorem setOscillator_cfg : (s.setOscillator k o).cfg = s.cfg := by
  cases k <;> rfl
@[simp] theorem setOscillator_osc : (s.setOscillator k o).osc = if k = .osc then o else s.osc := by
  cases k <;> rfl
@[simp] theorem setOscillator_lfo : (s.setOscillator k o).lfo = if k = .lfo then o else s.lfo := by
  cases k <;> rfl
@[simp] theorem setOscillator_svf : (s.setOscillator k o).svf = s.svf := by
  cases k <;> rfl
@[simp] theorem setOscillator_dly : (s.setOscillator k o).dly = s.dly := by
  cases k <;> rfl
@[simp] theorem setOscillator_snap : (s.setOscillator k o).snap = s.snap := by
  cases k <;> rfl
@[simp] theorem setOscillator_disp : (s.setOscillator k o).disp = s.disp := by
  cases k <;> rfl
@[simp] theorem setOscillator_ack : (s.setOscillator k o).ack = s.ack := by
  cases k <;> rfl
@[simp] theorem setOscillator_viol : (s.setOscillator k o).viol = s.viol := by
  cases k <;> rfl
@[simp] theorem setOscillator_draws : (s.setOscillator k o).draws = s.draws := by
  cases k <;> rfl
@[simp] theorem setOscillator_inputs : (s.setOscillator k o).inputs = s.inputs := by
  cases k <;> rfl
@[simp] theorem setOscillator_sched : (s.setOscillator k o).sched = s.sched := by
  cases k <;> rfl
@[simp] theorem setOscillator_replies : (s.setOscillator k o).replies = s.replies := by
  cases k <;> rfl

end setOscillator

end Sys2Proof.Machine
end

