-- ==== Sys2Proof/Laws/Ops.lean ====
section
/-! SUPPORT. What each shared operation of the datapath can change: one lemma per field it leaves alone, and the values
it gives. Proofs about commands cite these and do not unfold the operations. -/

namespace Sys2Proof.Machine

section logmap
variable (K : Kernels) (mn mx raw : FX64) (s : State)

@[simp] theorem logmap_pend : (logmap K mn mx raw s).1.pend = s.pend := by
  unfold logmap State.drawValue; split <;> rfl
@[simp] theorem logmap_regs : (logmap K mn mx raw s).1.regs = s.regs := by
  unfold logmap State.drawValue; split <;> rfl
@[simp] theorem logmap_outbuf : (logmap K mn mx raw s).1.outbuf = s.outbuf := by
  unfold logmap State.drawValue; split <;> rfl
@[simp] theorem logmap_cfgLock : (logmap K mn mx raw s).1.cfgLock = s.cfgLock := by
  unfold logmap State.drawValue; split <;> rfl
@[simp] theorem logmap_err : (logmap K mn mx raw s).1.err = s.err := by
  unfold logmap State.drawValue; split <;> rfl
@[simp] theorem logmap_cf : (logmap K mn mx raw s).1.cf = s.cf := by
  unfold logmap State.drawValue; split <;> rfl
@[simp] theorem logmap_cfg : (logmap K mn mx raw s).1.cfg = s.cfg := by
  unfold logmap State.drawValue; split <;> rfl
@[simp] theorem logmap_osc : (logmap K mn mx raw s).1.osc = s.osc := by
  unfold logmap State.drawValue; split <;> rfl
@[simp] theorem logmap_lfo : (logmap K mn mx raw s).1.lfo = s.lfo := by
  unfold logmap State.drawValue; split <;> rfl
@[simp] theorem logmap_svf : (logmap K mn mx raw s).1.svf = s.svf := by
  unfold logmap State.drawValue; split <;> rfl
@[simp] theorem logmap_dly : (logmap K mn mx raw s).1.dly = s.dly := by
  unfold logmap State.drawValue; split <;> rfl
@[simp] theorem logmap_snap : (logmap K mn mx raw s).1.snap = s.snap := by
  unfold logmap State.drawValue; split <;> rfl
@[simp] theorem logmap_disp : (logmap K mn mx raw s).1.disp = s.disp := by
  unfold logmap State.drawValue; split <;> rfl
@[simp] theorem logmap_ack : (logmap K mn mx raw s).1.ack = s.ack := by
  unfold logmap State.drawValue; split <;> rfl
@[simp] theorem logmap_inputs : (logmap K mn mx raw s).1.inputs = s.inputs := by
  unfold logmap State.drawValue; split <;> rfl
@[simp] theorem logmap_sched : (logmap K mn mx raw s).1.sched = s.sched := by
  unfold logmap State.drawValue; split <;> rfl
@[simp] theorem logmap_replies : (logmap K mn mx raw s).1.replies = s.replies := by
  unfold logmap State.drawValue; split <;> rfl

/-- On a legal range the curve is LOGMAP and the state is unchanged (R78). -/
theorem logmap_of_legal (h : 0 < mn.toInt) (h' : 0 < mx.toInt) :
    logmap K mn mx raw s = (s, logCurve K.logMid mn mx raw) := by
  unfold logmap; rw [if_neg (by omega)]

/-- On an illegal range the result is the next draw, and V_LOG_CFG is recorded (R78). -/
theorem logmap_of_illegal (h : mn.toInt ≤ 0 ∨ mx.toInt ≤ 0) :
    logmap K mn mx raw s = ({ s with viol := s.viol ++ [.logCfg], draws := s.draws + 1 }, Config.draw s.draws) := by
  unfold logmap; rw [if_pos h]; rfl

end logmap

section pmap
variable (K : Kernels) (i : Fin Config.nslot) (raw : FX64) (s : State)

@[simp] theorem pmap_pend : (pmap K i raw s).1.pend = s.pend := by
  unfold pmap; simp only []; split <;> simp
@[simp] theorem pmap_regs : (pmap K i raw s).1.regs = s.regs := by
  unfold pmap; simp only []; split <;> simp
@[simp] theorem pmap_outbuf : (pmap K i raw s).1.outbuf = s.outbuf := by
  unfold pmap; simp only []; split <;> simp
@[simp] theorem pmap_cfgLock : (pmap K i raw s).1.cfgLock = s.cfgLock := by
  unfold pmap; simp only []; split <;> simp
@[simp] theorem pmap_err : (pmap K i raw s).1.err = s.err := by
  unfold pmap; simp only []; split <;> simp
@[simp] theorem pmap_cf : (pmap K i raw s).1.cf = s.cf := by
  unfold pmap; simp only []; split <;> simp
@[simp] theorem pmap_cfg : (pmap K i raw s).1.cfg = s.cfg := by
  unfold pmap; simp only []; split <;> simp
@[simp] theorem pmap_osc : (pmap K i raw s).1.osc = s.osc := by
  unfold pmap; simp only []; split <;> simp
@[simp] theorem pmap_lfo : (pmap K i raw s).1.lfo = s.lfo := by
  unfold pmap; simp only []; split <;> simp
@[simp] theorem pmap_svf : (pmap K i raw s).1.svf = s.svf := by
  unfold pmap; simp only []; split <;> simp
@[simp] theorem pmap_dly : (pmap K i raw s).1.dly = s.dly := by
  unfold pmap; simp only []; split <;> simp
@[simp] theorem pmap_snap : (pmap K i raw s).1.snap = s.snap := by
  unfold pmap; simp only []; split <;> simp
@[simp] theorem pmap_disp : (pmap K i raw s).1.disp = s.disp := by
  unfold pmap; simp only []; split <;> simp
@[simp] theorem pmap_ack : (pmap K i raw s).1.ack = s.ack := by
  unfold pmap; simp only []; split <;> simp
@[simp] theorem pmap_inputs : (pmap K i raw s).1.inputs = s.inputs := by
  unfold pmap; simp only []; split <;> simp
@[simp] theorem pmap_sched : (pmap K i raw s).1.sched = s.sched := by
  unfold pmap; simp only []; split <;> simp
@[simp] theorem pmap_replies : (pmap K i raw s).1.replies = s.replies := by
  unfold pmap; simp only []; split <;> simp

/-- A LINEAR slot (R79). -/
theorem pmap_of_linear (h : (s.slot i).curve = .linear) :
    pmap K i raw s =
      (s.require (readingInRange raw) .rawRange, linmap (s.slot i).min (s.slot i).max raw) := by
  simp only [pmap, h]

/-- A LOGARITHMIC slot (R79). -/
theorem pmap_of_log (h : (s.slot i).curve = .logarithmic) :
    pmap K i raw s = logmap K (s.slot i).min (s.slot i).max raw
      (s.require (readingInRange raw) .rawRange) := by
  simp only [pmap, h]

/-- A slot depends only on the configuration. -/
theorem slot_congr {s t : State} (h : t.cfg = s.cfg) : t.slot i = s.slot i := by simp [State.slot, h]

end pmap

section oscProcess
variable (P : Params) (k : OscId) (s : State)

@[simp] theorem oscProcess_pend : (oscProcess P k s).1.pend = s.pend := by
  simp [oscProcess]
@[simp] theorem oscProcess_regs : (oscProcess P k s).1.regs = s.regs := by
  simp [oscProcess]
@[simp] theorem oscProcess_outbuf : (oscProcess P k s).1.outbuf = s.outbuf := by
  simp [oscProcess]
@[simp] theorem oscProcess_cfgLock : (oscProcess P k s).1.cfgLock = s.cfgLock := by
  simp [oscProcess]
@[simp] theorem oscProcess_err : (oscProcess P k s).1.err = s.err := by
  simp [oscProcess]
@[simp] theorem oscProcess_cf : (oscProcess P k s).1.cf = s.cf := by
  simp [oscProcess]
@[simp] theorem oscProcess_cfg : (oscProcess P k s).1.cfg = s.cfg := by
  simp [oscProcess]
@[simp] theorem oscProcess_svf : (oscProcess P k s).1.svf = s.svf := by
  simp [oscProcess]
@[simp] theorem oscProcess_dly : (oscProcess P k s).1.dly = s.dly := by
  simp [oscProcess]
@[simp] theorem oscProcess_snap : (oscProcess P k s).1.snap = s.snap := by
  simp [oscProcess]
@[simp] theorem oscProcess_disp : (oscProcess P k s).1.disp = s.disp := by
  simp [oscProcess]
@[simp] theorem oscProcess_ack : (oscProcess P k s).1.ack = s.ack := by
  simp [oscProcess]
@[simp] theorem oscProcess_draws : (oscProcess P k s).1.draws = s.draws := by
  simp [oscProcess]
@[simp] theorem oscProcess_inputs : (oscProcess P k s).1.inputs = s.inputs := by
  simp [oscProcess]
@[simp] theorem oscProcess_sched : (oscProcess P k s).1.sched = s.sched := by
  simp [oscProcess]
@[simp] theorem oscProcess_replies : (oscProcess P k s).1.replies = s.replies := by
  simp [oscProcess]

/-- OscProcess in closed form (R86). -/
theorem oscProcess_eq : oscProcess P k s =
    ({ s.setOscillator k { s.oscillator k with phase := phadv P (s.oscillator k).phase (s.oscillator k).freq } with
        viol := s.viol ++ if inBand P (s.oscillator k).freq then [] else [.freqRange] },
      wave P.kernels (Config.waveform k) (s.oscillator k).phase (s.oscillator k).amp) := by
  cases k <;> simp [oscProcess, require_eq, State.setOscillator]

theorem oscProcess_osc : (oscProcess P k s).1.osc =
    if k = .osc then { s.osc with phase := phadv P s.osc.phase s.osc.freq } else s.osc := by
  simp only [oscProcess, setOscillator_osc, require_osc]
  cases k <;> rfl

theorem oscProcess_lfo : (oscProcess P k s).1.lfo =
    if k = .lfo then { s.lfo with phase := phadv P s.lfo.phase s.lfo.freq } else s.lfo := by
  simp only [oscProcess, setOscillator_lfo, require_lfo]
  cases k <;> rfl

theorem oscProcess_viol : (oscProcess P k s).1.viol =
    s.viol ++ if inBand P (s.oscillator k).freq then [] else [.freqRange] := by
  simp [oscProcess, require_viol]

theorem oscProcess_value : (oscProcess P k s).2 =
    wave P.kernels (Config.waveform k) (s.oscillator k).phase (s.oscillator k).amp := rfl

end oscProcess

section filterProcess
variable (P : Params) (x : FX64) (s : State)

@[simp] theorem filterProcess_pend : (filterProcess P x s).1.pend = s.pend := by
  unfold filterProcess; simp only []; split <;> simp
@[simp] theorem filterProcess_regs : (filterProcess P x s).1.regs = s.regs := by
  unfold filterProcess; simp only []; split <;> simp
@[simp] theorem filterProcess_outbuf : (filterProcess P x s).1.outbuf = s.outbuf := by
  unfold filterProcess; simp only []; split <;> simp
@[simp] theorem filterProcess_cfgLock : (filterProcess P x s).1.cfgLock = s.cfgLock := by
  unfold filterProcess; simp only []; split <;> simp
@[simp] theorem filterProcess_err : (filterProcess P x s).1.err = s.err := by
  unfold filterProcess; simp only []; split <;> simp
@[simp] theorem filterProcess_cf : (filterProcess P x s).1.cf = s.cf := by
  unfold filterProcess; simp only []; split <;> simp
@[simp] theorem filterProcess_cfg : (filterProcess P x s).1.cfg = s.cfg := by
  unfold filterProcess; simp only []; split <;> simp
@[simp] theorem filterProcess_osc : (filterProcess P x s).1.osc = s.osc := by
  unfold filterProcess; simp only []; split <;> simp
@[simp] theorem filterProcess_lfo : (filterProcess P x s).1.lfo = s.lfo := by
  unfold filterProcess; simp only []; split <;> simp
@[simp] theorem filterProcess_dly : (filterProcess P x s).1.dly = s.dly := by
  unfold filterProcess; simp only []; split <;> simp
@[simp] theorem filterProcess_snap : (filterProcess P x s).1.snap = s.snap := by
  unfold filterProcess; simp only []; split <;> simp
@[simp] theorem filterProcess_disp : (filterProcess P x s).1.disp = s.disp := by
  unfold filterProcess; simp only []; split <;> simp
@[simp] theorem filterProcess_ack : (filterProcess P x s).1.ack = s.ack := by
  unfold filterProcess; simp only []; split <;> simp
@[simp] theorem filterProcess_draws : (filterProcess P x s).1.draws = s.draws := by
  unfold filterProcess; simp only []; split <;> simp
@[simp] theorem filterProcess_inputs : (filterProcess P x s).1.inputs = s.inputs := by
  unfold filterProcess; simp only []; split <;> simp
@[simp] theorem filterProcess_sched : (filterProcess P x s).1.sched = s.sched := by
  unfold filterProcess; simp only []; split <;> simp
@[simp] theorem filterProcess_replies : (filterProcess P x s).1.replies = s.replies := by
  unfold filterProcess; simp only []; split <;> simp

/-- The raw result of the filter kernel on the filter's state (R95). -/
abbrev filterOut : SvfOut := P.kernels.svf s.svf.fc s.cfg.svfRes s.cfg.svfDrive s.svf.s1 s.svf.s2 x

/-- The selected tap (R95). -/
abbrev selectedTap : FX64 := if s.svf.mode = .lowpass then (filterOut P x s).lo else (filterOut P x s).hi

/-- The other tap (R95). -/
abbrev otherTap : FX64 := if s.svf.mode = .lowpass then (filterOut P x s).hi else (filterOut P x s).lo

/-- FilterProcess in closed form (R95). -/
theorem filterProcess_eq : filterProcess P x s =
    ({ s with
        svf := { s.svf with s1 := (filterOut P x s).s1, s2 := (filterOut P x s).s2 }
        viol := s.viol ++ if inBand P s.svf.fc then [] else [.fcRange] },
      selectedTap P x s, otherTap P x s) := by
  cases h : s.svf.mode <;> simp [filterProcess, require_eq, h]

theorem filterProcess_svf : (filterProcess P x s).1.svf =
    { s.svf with s1 := (filterOut P x s).s1, s2 := (filterOut P x s).s2 } := by
  unfold filterProcess; simp only []; split <;> simp

theorem filterProcess_viol : (filterProcess P x s).1.viol =
    s.viol ++ if inBand P s.svf.fc then [] else [.fcRange] := by
  unfold filterProcess; simp only []; split <;> simp [require_viol]

theorem filterProcess_lowpass (h : s.svf.mode = .lowpass) :
    (filterProcess P x s).2 = ((filterOut P x s).lo, (filterOut P x s).hi) := by
  simp [filterProcess, h]

theorem filterProcess_highpass (h : s.svf.mode = .highpass) :
    (filterProcess P x s).2 = ((filterOut P x s).hi, (filterOut P x s).lo) := by
  simp [filterProcess, h]

end filterProcess

section delayUpdate
variable (P : Params) (target g : FX64) (s : State)

@[simp] theorem delayUpdate_pend : (delayUpdate P target g s).pend = s.pend := by
  simp [delayUpdate]
@[simp] theorem delayUpdate_regs : (delayUpdate P target g s).regs = s.regs := by
  simp [delayUpdate]
@[simp] theorem delayUpdate_outbuf : (delayUpdate P target g s).outbuf = s.outbuf := by
  simp [delayUpdate]
@[simp] theorem delayUpdate_cfgLock : (delayUpdate P target g s).cfgLock = s.cfgLock := by
  simp [delayUpdate]
@[simp] theorem delayUpdate_err : (delayUpdate P target g s).err = s.err := by
  simp [delayUpdate]
@[simp] theorem delayUpdate_cf : (delayUpdate P target g s).cf = s.cf := by
  simp [delayUpdate]
@[simp] theorem delayUpdate_cfg : (delayUpdate P target g s).cfg = s.cfg := by
  simp [delayUpdate]
@[simp] theorem delayUpdate_osc : (delayUpdate P target g s).osc = s.osc := by
  simp [delayUpdate]
@[simp] theorem delayUpdate_lfo : (delayUpdate P target g s).lfo = s.lfo := by
  simp [delayUpdate]
@[simp] theorem delayUpdate_svf : (delayUpdate P target g s).svf = s.svf := by
  simp [delayUpdate]
@[simp] theorem delayUpdate_snap : (delayUpdate P target g s).snap = s.snap := by
  simp [delayUpdate]
@[simp] theorem delayUpdate_disp : (delayUpdate P target g s).disp = s.disp := by
  simp [delayUpdate]
@[simp] theorem delayUpdate_ack : (delayUpdate P target g s).ack = s.ack := by
  simp [delayUpdate]
@[simp] theorem delayUpdate_draws : (delayUpdate P target g s).draws = s.draws := by
  simp [delayUpdate]
@[simp] theorem delayUpdate_inputs : (delayUpdate P target g s).inputs = s.inputs := by
  simp [delayUpdate]
@[simp] theorem delayUpdate_sched : (delayUpdate P target g s).sched = s.sched := by
  simp [delayUpdate]
@[simp] theorem delayUpdate_replies : (delayUpdate P target g s).replies = s.replies := by
  simp [delayUpdate]

/-- DelayUpdate in closed form (R102). -/
theorem delayUpdate_eq : delayUpdate P target g s = { s with
    dly := { s.dly with tgt := target, fb := g }
    viol := s.viol ++ (if delayInRange P target then [] else [.dlenRange]) ++ if gainInRange g then [] else [.fbRange] } := by
  simp [delayUpdate, require_eq]

theorem delayUpdate_dly : (delayUpdate P target g s).dly = { s.dly with tgt := target, fb := g } := by
  simp [delayUpdate]

theorem delayUpdate_viol : (delayUpdate P target g s).viol =
    s.viol ++ (if delayInRange P target then [] else [.dlenRange]) ++ if gainInRange g then [] else [.fbRange] := by
  simp [delayUpdate, require_viol]

end delayUpdate

section delayRead
variable (P : Params) (s : State)

@[simp] theorem delayRead_pend : (delayRead P s).1.pend = s.pend := by
  simp [delayRead]
@[simp] theorem delayRead_regs : (delayRead P s).1.regs = s.regs := by
  simp [delayRead]
@[simp] theorem delayRead_outbuf : (delayRead P s).1.outbuf = s.outbuf := by
  simp [delayRead]
@[simp] theorem delayRead_cfgLock : (delayRead P s).1.cfgLock = s.cfgLock := by
  simp [delayRead]
@[simp] theorem delayRead_err : (delayRead P s).1.err = s.err := by
  simp [delayRead]
@[simp] theorem delayRead_cf : (delayRead P s).1.cf = s.cf := by
  simp [delayRead]
@[simp] theorem delayRead_cfg : (delayRead P s).1.cfg = s.cfg := by
  simp [delayRead]
@[simp] theorem delayRead_osc : (delayRead P s).1.osc = s.osc := by
  simp [delayRead]
@[simp] theorem delayRead_lfo : (delayRead P s).1.lfo = s.lfo := by
  simp [delayRead]
@[simp] theorem delayRead_svf : (delayRead P s).1.svf = s.svf := by
  simp [delayRead]
@[simp] theorem delayRead_dly : (delayRead P s).1.dly = s.dly := by
  simp [delayRead]
@[simp] theorem delayRead_snap : (delayRead P s).1.snap = s.snap := by
  simp [delayRead]
@[simp] theorem delayRead_disp : (delayRead P s).1.disp = s.disp := by
  simp [delayRead]
@[simp] theorem delayRead_ack : (delayRead P s).1.ack = s.ack := by
  simp [delayRead]
@[simp] theorem delayRead_draws : (delayRead P s).1.draws = s.draws := by
  simp [delayRead]
@[simp] theorem delayRead_inputs : (delayRead P s).1.inputs = s.inputs := by
  simp [delayRead]
@[simp] theorem delayRead_sched : (delayRead P s).1.sched = s.sched := by
  simp [delayRead]
@[simp] theorem delayRead_replies : (delayRead P s).1.replies = s.replies := by
  simp [delayRead]

theorem delayRead_viol : (delayRead P s).1.viol =
    s.viol ++ if delayInRange P s.dly.cur then [] else [.dlenRange] := by
  simp [delayRead, require_viol]

end delayRead

section delayWrite
variable (P : Params) (fr inp : FX64) (s : State)

@[simp] theorem delayWrite_pend : (delayWrite P fr inp s).pend = s.pend := rfl
@[simp] theorem delayWrite_regs : (delayWrite P fr inp s).regs = s.regs := rfl
@[simp] theorem delayWrite_outbuf : (delayWrite P fr inp s).outbuf = s.outbuf := rfl
@[simp] theorem delayWrite_cfgLock : (delayWrite P fr inp s).cfgLock = s.cfgLock := rfl
@[simp] theorem delayWrite_err : (delayWrite P fr inp s).err = s.err := rfl
@[simp] theorem delayWrite_cf : (delayWrite P fr inp s).cf = s.cf := rfl
@[simp] theorem delayWrite_cfg : (delayWrite P fr inp s).cfg = s.cfg := rfl
@[simp] theorem delayWrite_osc : (delayWrite P fr inp s).osc = s.osc := rfl
@[simp] theorem delayWrite_lfo : (delayWrite P fr inp s).lfo = s.lfo := rfl
@[simp] theorem delayWrite_svf : (delayWrite P fr inp s).svf = s.svf := rfl
@[simp] theorem delayWrite_snap : (delayWrite P fr inp s).snap = s.snap := rfl
@[simp] theorem delayWrite_disp : (delayWrite P fr inp s).disp = s.disp := rfl
@[simp] theorem delayWrite_ack : (delayWrite P fr inp s).ack = s.ack := rfl
@[simp] theorem delayWrite_viol : (delayWrite P fr inp s).viol = s.viol := rfl
@[simp] theorem delayWrite_draws : (delayWrite P fr inp s).draws = s.draws := rfl
@[simp] theorem delayWrite_inputs : (delayWrite P fr inp s).inputs = s.inputs := rfl
@[simp] theorem delayWrite_sched : (delayWrite P fr inp s).sched = s.sched := rfl
@[simp] theorem delayWrite_replies : (delayWrite P fr inp s).replies = s.replies := rfl


end delayWrite

section delayProcess
variable (P : Params) (inp : FX64) (s : State)

@[simp] theorem delayProcess_pend : (delayProcess P inp s).1.pend = s.pend := by
  simp [delayProcess]
@[simp] theorem delayProcess_regs : (delayProcess P inp s).1.regs = s.regs := by
  simp [delayProcess]
@[simp] theorem delayProcess_outbuf : (delayProcess P inp s).1.outbuf = s.outbuf := by
  simp [delayProcess]
@[simp] theorem delayProcess_cfgLock : (delayProcess P inp s).1.cfgLock = s.cfgLock := by
  simp [delayProcess]
@[simp] theorem delayProcess_err : (delayProcess P inp s).1.err = s.err := by
  simp [delayProcess]
@[simp] theorem delayProcess_cf : (delayProcess P inp s).1.cf = s.cf := by
  simp [delayProcess]
@[simp] theorem delayProcess_cfg : (delayProcess P inp s).1.cfg = s.cfg := by
  simp [delayProcess]
@[simp] theorem delayProcess_osc : (delayProcess P inp s).1.osc = s.osc := by
  simp [delayProcess]
@[simp] theorem delayProcess_lfo : (delayProcess P inp s).1.lfo = s.lfo := by
  simp [delayProcess]
@[simp] theorem delayProcess_snap : (delayProcess P inp s).1.snap = s.snap := by
  simp [delayProcess]
@[simp] theorem delayProcess_disp : (delayProcess P inp s).1.disp = s.disp := by
  simp [delayProcess]
@[simp] theorem delayProcess_ack : (delayProcess P inp s).1.ack = s.ack := by
  simp [delayProcess]
@[simp] theorem delayProcess_draws : (delayProcess P inp s).1.draws = s.draws := by
  simp [delayProcess]
@[simp] theorem delayProcess_inputs : (delayProcess P inp s).1.inputs = s.inputs := by
  simp [delayProcess]
@[simp] theorem delayProcess_sched : (delayProcess P inp s).1.sched = s.sched := by
  simp [delayProcess]
@[simp] theorem delayProcess_replies : (delayProcess P inp s).1.replies = s.replies := by
  simp [delayProcess]

/-- The filtered read of one DelayProcess (R105). -/
abbrev filteredRead : FX64 := selectedTap P (delayTap P (delaySmooth P s)) s

/-- DelayProcess in closed form (R103 to R108). -/
theorem delayProcess_eq : delayProcess P inp s =
    ({ s with
        dly := { s.dly with
          cur := smooth P s.dly.cur s.dly.tgt
          buf := s.dly.buf.write s.dly.w (fadd (fmul s.dly.fb (filteredRead P s)) inp)
          w := (s.dly.w + 1) % P.cap }
        svf := { s.svf with
          s1 := (filterOut P (delayTap P (delaySmooth P s)) s).s1, s2 := (filterOut P (delayTap P (delaySmooth P s)) s).s2 }
        viol := s.viol ++ (if delayInRange P (smooth P s.dly.cur s.dly.tgt) then [] else [.dlenRange])
          ++ if inBand P s.svf.fc then [] else [.fcRange] },
      delayMix s.dly.fb (filteredRead P s) inp, filteredRead P s) := by
  simp only [delayProcess, filterProcess_eq, delayRead, require_eq, delayWrite, delaySmooth]
  rfl

theorem delayProcess_dly : (delayProcess P inp s).1.dly =
    { s.dly with
      cur := smooth P s.dly.cur s.dly.tgt
      buf := s.dly.buf.write s.dly.w (fadd (fmul s.dly.fb (delayProcess P inp s).2.2) inp)
      w := (s.dly.w + 1) % P.cap } := by
  simp [delayProcess, delayWrite]

theorem delayProcess_out : (delayProcess P inp s).2.1 = delayMix s.dly.fb (delayProcess P inp s).2.2 inp := by
  simp [delayProcess, delayWrite]

theorem delayProcess_svf_mode : (delayProcess P inp s).1.svf.mode = s.svf.mode := by
  simp [delayProcess, filterProcess_svf]

theorem delayProcess_svf_fc : (delayProcess P inp s).1.svf.fc = s.svf.fc := by
  simp [delayProcess, filterProcess_svf]

theorem delayProcess_viol : (delayProcess P inp s).1.viol =
    s.viol ++ (if delayInRange P (smooth P s.dly.cur s.dly.tgt) then [] else [.dlenRange])
      ++ if inBand P s.svf.fc then [] else [.fcRange] := by
  simp only [delayProcess, delayWrite_viol, filterProcess_viol, delayRead_viol, delayRead_svf, delaySmooth_viol,
    delaySmooth_svf, delaySmooth_dly]
  rfl

end delayProcess

section sampleTick
variable (P : Params) (s : State)

@[simp] theorem sampleTick_pend : (sampleTick P s).1.pend = s.pend := by
  simp [sampleTick, oscSample, lfoSample, oscSetFreq]
@[simp] theorem sampleTick_regs : (sampleTick P s).1.regs = s.regs := by
  simp [sampleTick, oscSample, lfoSample, oscSetFreq]
@[simp] theorem sampleTick_outbuf : (sampleTick P s).1.outbuf = s.outbuf := by
  simp [sampleTick, oscSample, lfoSample, oscSetFreq]
@[simp] theorem sampleTick_cfgLock : (sampleTick P s).1.cfgLock = s.cfgLock := by
  simp [sampleTick, oscSample, lfoSample, oscSetFreq]
@[simp] theorem sampleTick_err : (sampleTick P s).1.err = s.err := by
  simp [sampleTick, oscSample, lfoSample, oscSetFreq]
@[simp] theorem sampleTick_cf : (sampleTick P s).1.cf = s.cf := by
  simp [sampleTick, oscSample, lfoSample, oscSetFreq]
@[simp] theorem sampleTick_cfg : (sampleTick P s).1.cfg = s.cfg := by
  simp [sampleTick, oscSample, lfoSample, oscSetFreq]
@[simp] theorem sampleTick_snap : (sampleTick P s).1.snap = s.snap := by
  simp [sampleTick, oscSample, lfoSample, oscSetFreq]
@[simp] theorem sampleTick_disp : (sampleTick P s).1.disp = s.disp := by
  simp [sampleTick, oscSample, lfoSample, oscSetFreq]
@[simp] theorem sampleTick_ack : (sampleTick P s).1.ack = s.ack := by
  simp [sampleTick, oscSample, lfoSample, oscSetFreq]
@[simp] theorem sampleTick_draws : (sampleTick P s).1.draws = s.draws := by
  simp [sampleTick, oscSample, lfoSample, oscSetFreq]
@[simp] theorem sampleTick_inputs : (sampleTick P s).1.inputs = s.inputs := by
  simp [sampleTick, oscSample, lfoSample, oscSetFreq]
@[simp] theorem sampleTick_sched : (sampleTick P s).1.sched = s.sched := by
  simp [sampleTick, oscSample, lfoSample, oscSetFreq]
@[simp] theorem sampleTick_replies : (sampleTick P s).1.replies = s.replies := by
  simp [sampleTick, oscSample, lfoSample, oscSetFreq]

theorem sampleTick_lfo : (sampleTick P s).1.lfo = { s.lfo with phase := phadv P s.lfo.phase s.lfo.freq } := by
  simp [sampleTick, oscSample, lfoSample, oscProcess_lfo, oscSetFreq]

/-- The LFO's contribution to the oscillator frequency in this tick (R126). -/
abbrev tickLfo : FX64 := if s.snap.lfo then fmul (sinCurve P.kernels.sinMid s.lfo.phase) s.lfo.amp else 0

theorem sampleTick_osc : (sampleTick P s).1.osc =
    { s.osc with
      freq := fadd s.snap.baseFreq (tickLfo P s)
      phase := phadv P s.osc.phase (fadd s.snap.baseFreq (tickLfo P s)) } := by
  simp [sampleTick, oscSample, lfoSample, oscProcess_osc, oscSetFreq, State.oscillator, oscProcess_value, wave,
    Config.waveform, tickLfo]

/-- The oscillator sample that enters the delay line in this tick (R126). -/
abbrev tickInput : FX64 :=
  if s.snap.regular || s.snap.lfo then (if s.osc.phase.toNat < 2 ^ 31 then s.osc.amp else fneg s.osc.amp) else 0

/-- SampleTick in closed form: the two units, then DelayProcess on the rest of the state (R126). -/
theorem sampleTick_eq : sampleTick P s =
    let r := delayProcess P (tickInput s) { s with
      lfo := { s.lfo with phase := phadv P s.lfo.phase s.lfo.freq }
      osc := { s.osc with
        freq := fadd s.snap.baseFreq (tickLfo P s)
        phase := phadv P s.osc.phase (fadd s.snap.baseFreq (tickLfo P s)) }
      viol := s.viol ++ (if inBand P s.lfo.freq then [] else [.freqRange])
        ++ if inBand P (fadd s.snap.baseFreq (tickLfo P s)) then [] else [.freqRange] }
    (r.1, fmul r.2.1 s.snap.volume, r.2.1) := by
  simp only [sampleTick, oscSample, lfoSample, oscProcess_eq, oscSetFreq, State.oscillator, State.setOscillator, wave,
    Config.waveform, tickLfo, tickInput, delayProcess_snap]
  rfl

theorem sampleTick_y : (sampleTick P s).2.1 = fmul (sampleTick P s).2.2 s.snap.volume := by
  simp [sampleTick, oscSample, lfoSample, oscSetFreq]

end sampleTick

section blockTick
variable (P : Params) (k : Nat) (s : State)

@[simp] theorem blockTick_pend : (blockTick P k s).1.pend = s.pend := by
  simp [blockTick]
@[simp] theorem blockTick_regs : (blockTick P k s).1.regs = s.regs := by
  simp [blockTick]
@[simp] theorem blockTick_cfgLock : (blockTick P k s).1.cfgLock = s.cfgLock := by
  simp [blockTick]
@[simp] theorem blockTick_err : (blockTick P k s).1.err = s.err := by
  simp [blockTick]
@[simp] theorem blockTick_cf : (blockTick P k s).1.cf = s.cf := by
  simp [blockTick]
@[simp] theorem blockTick_cfg : (blockTick P k s).1.cfg = s.cfg := by
  simp [blockTick]
@[simp] theorem blockTick_snap : (blockTick P k s).1.snap = s.snap := by
  simp [blockTick]
@[simp] theorem blockTick_disp : (blockTick P k s).1.disp = s.disp := by
  simp [blockTick]
@[simp] theorem blockTick_ack : (blockTick P k s).1.ack = s.ack := by
  simp [blockTick]
@[simp] theorem blockTick_draws : (blockTick P k s).1.draws = s.draws := by
  simp [blockTick]
@[simp] theorem blockTick_inputs : (blockTick P k s).1.inputs = s.inputs := by
  simp [blockTick]
@[simp] theorem blockTick_sched : (blockTick P k s).1.sched = s.sched := by
  simp [blockTick]
@[simp] theorem blockTick_replies : (blockTick P k s).1.replies = s.replies := by
  simp [blockTick]


end blockTick

/-- One more tick at the end of a block (R132). -/
theorem runTicks_succ (P : Params) (s : State) (n : Nat) :
    runTicks P s (n + 1) = blockTick P n (runTicks P s n).1 := rfl

section runTicks
variable (P : Params) (n : Nat) (s : State)

@[simp] theorem runTicks_pend : (runTicks P s n).1.pend = s.pend := by
  induction n with
  | zero => rfl
  | succ n ih => rw [runTicks_succ]; simp [ih]
@[simp] theorem runTicks_regs : (runTicks P s n).1.regs = s.regs := by
  induction n with
  | zero => rfl
  | succ n ih => rw [runTicks_succ]; simp [ih]
@[simp] theorem runTicks_cfgLock : (runTicks P s n).1.cfgLock = s.cfgLock := by
  induction n with
  | zero => rfl
  | succ n ih => rw [runTicks_succ]; simp [ih]
@[simp] theorem runTicks_err : (runTicks P s n).1.err = s.err := by
  induction n with
  | zero => rfl
  | succ n ih => rw [runTicks_succ]; simp [ih]
@[simp] theorem runTicks_cf : (runTicks P s n).1.cf = s.cf := by
  induction n with
  | zero => rfl
  | succ n ih => rw [runTicks_succ]; simp [ih]
@[simp] theorem runTicks_cfg : (runTicks P s n).1.cfg = s.cfg := by
  induction n with
  | zero => rfl
  | succ n ih => rw [runTicks_succ]; simp [ih]
@[simp] theorem runTicks_snap : (runTicks P s n).1.snap = s.snap := by
  induction n with
  | zero => rfl
  | succ n ih => rw [runTicks_succ]; simp [ih]
@[simp] theorem runTicks_disp : (runTicks P s n).1.disp = s.disp := by
  induction n with
  | zero => rfl
  | succ n ih => rw [runTicks_succ]; simp [ih]
@[simp] theorem runTicks_ack : (runTicks P s n).1.ack = s.ack := by
  induction n with
  | zero => rfl
  | succ n ih => rw [runTicks_succ]; simp [ih]
@[simp] theorem runTicks_draws : (runTicks P s n).1.draws = s.draws := by
  induction n with
  | zero => rfl
  | succ n ih => rw [runTicks_succ]; simp [ih]
@[simp] theorem runTicks_inputs : (runTicks P s n).1.inputs = s.inputs := by
  induction n with
  | zero => rfl
  | succ n ih => rw [runTicks_succ]; simp [ih]
@[simp] theorem runTicks_sched : (runTicks P s n).1.sched = s.sched := by
  induction n with
  | zero => rfl
  | succ n ih => rw [runTicks_succ]; simp [ih]
@[simp] theorem runTicks_replies : (runTicks P s n).1.replies = s.replies := by
  induction n with
  | zero => rfl
  | succ n ih => rw [runTicks_succ]; simp [ih]


end runTicks

section mapKnob
variable (K : Kernels) (i : Fin Config.nslot) (s : State)

@[simp] theorem mapKnob_pend : (mapKnob K i s).1.pend = s.pend := by
  simp [mapKnob]
@[simp] theorem mapKnob_regs : (mapKnob K i s).1.regs = s.regs := by
  simp [mapKnob]
@[simp] theorem mapKnob_outbuf : (mapKnob K i s).1.outbuf = s.outbuf := by
  simp [mapKnob]
@[simp] theorem mapKnob_cfgLock : (mapKnob K i s).1.cfgLock = s.cfgLock := by
  simp [mapKnob]
@[simp] theorem mapKnob_err : (mapKnob K i s).1.err = s.err := by
  simp [mapKnob]
@[simp] theorem mapKnob_cf : (mapKnob K i s).1.cf = s.cf := by
  simp [mapKnob]
@[simp] theorem mapKnob_cfg : (mapKnob K i s).1.cfg = s.cfg := by
  simp [mapKnob]
@[simp] theorem mapKnob_osc : (mapKnob K i s).1.osc = s.osc := by
  simp [mapKnob]
@[simp] theorem mapKnob_lfo : (mapKnob K i s).1.lfo = s.lfo := by
  simp [mapKnob]
@[simp] theorem mapKnob_svf : (mapKnob K i s).1.svf = s.svf := by
  simp [mapKnob]
@[simp] theorem mapKnob_dly : (mapKnob K i s).1.dly = s.dly := by
  simp [mapKnob]
@[simp] theorem mapKnob_snap : (mapKnob K i s).1.snap = s.snap := by
  simp [mapKnob]
@[simp] theorem mapKnob_disp : (mapKnob K i s).1.disp = s.disp := by
  simp [mapKnob]
@[simp] theorem mapKnob_ack : (mapKnob K i s).1.ack = s.ack := by
  simp [mapKnob]
@[simp] theorem mapKnob_inputs : (mapKnob K i s).1.inputs = s.inputs := by
  simp [mapKnob]
@[simp] theorem mapKnob_sched : (mapKnob K i s).1.sched = s.sched := by
  simp [mapKnob]
@[simp] theorem mapKnob_replies : (mapKnob K i s).1.replies = s.replies := by
  simp [mapKnob]


end mapKnob

section pushParameters
variable (P : Params) (s : State)

@[simp] theorem pushParameters_pend : (pushParameters P s).pend = s.pend := by
  simp [pushParameters, oscSetFreq, oscSetAmp]
@[simp] theorem pushParameters_regs : (pushParameters P s).regs = s.regs := by
  simp [pushParameters, oscSetFreq, oscSetAmp]
@[simp] theorem pushParameters_outbuf : (pushParameters P s).outbuf = s.outbuf := by
  simp [pushParameters, oscSetFreq, oscSetAmp]
@[simp] theorem pushParameters_cfgLock : (pushParameters P s).cfgLock = s.cfgLock := by
  simp [pushParameters, oscSetFreq, oscSetAmp]
@[simp] theorem pushParameters_err : (pushParameters P s).err = s.err := by
  simp [pushParameters, oscSetFreq, oscSetAmp]
@[simp] theorem pushParameters_cf : (pushParameters P s).cf = s.cf := by
  simp [pushParameters, oscSetFreq, oscSetAmp]
@[simp] theorem pushParameters_cfg : (pushParameters P s).cfg = s.cfg := by
  simp [pushParameters, oscSetFreq, oscSetAmp]
@[simp] theorem pushParameters_osc : (pushParameters P s).osc = s.osc := by
  simp [pushParameters, oscSetFreq, oscSetAmp]
@[simp] theorem pushParameters_disp : (pushParameters P s).disp = s.disp := by
  simp [pushParameters, oscSetFreq, oscSetAmp]
@[simp] theorem pushParameters_ack : (pushParameters P s).ack = s.ack := by
  simp [pushParameters, oscSetFreq, oscSetAmp]
@[simp] theorem pushParameters_inputs : (pushParameters P s).inputs = s.inputs := by
  simp [pushParameters, oscSetFreq, oscSetAmp]
@[simp] theorem pushParameters_sched : (pushParameters P s).sched = s.sched := by
  simp [pushParameters, oscSetFreq, oscSetAmp]
@[simp] theorem pushParameters_replies : (pushParameters P s).replies = s.replies := by
  simp [pushParameters, oscSetFreq, oscSetAmp]

theorem pushParameters_snap_volume : (pushParameters P s).snap.volume = s.snap.volume := by
  simp [pushParameters, oscSetFreq, oscSetAmp]

end pushParameters

section ctrlUpdate
variable (P : Params) (s : State)

@[simp] theorem ctrlUpdate_pend : (ctrlUpdate P s).pend = s.pend := by
  simp [ctrlUpdate, trimVolume, deriveFlags]
@[simp] theorem ctrlUpdate_regs : (ctrlUpdate P s).regs = s.regs := by
  simp [ctrlUpdate, trimVolume, deriveFlags]
@[simp] theorem ctrlUpdate_outbuf : (ctrlUpdate P s).outbuf = s.outbuf := by
  simp [ctrlUpdate, trimVolume, deriveFlags]
@[simp] theorem ctrlUpdate_cfgLock : (ctrlUpdate P s).cfgLock = s.cfgLock := by
  simp [ctrlUpdate, trimVolume, deriveFlags]
@[simp] theorem ctrlUpdate_err : (ctrlUpdate P s).err = s.err := by
  simp [ctrlUpdate, trimVolume, deriveFlags]
@[simp] theorem ctrlUpdate_cfg : (ctrlUpdate P s).cfg = s.cfg := by
  simp [ctrlUpdate, trimVolume, deriveFlags]
@[simp] theorem ctrlUpdate_osc : (ctrlUpdate P s).osc = s.osc := by
  simp [ctrlUpdate, trimVolume, deriveFlags]
@[simp] theorem ctrlUpdate_inputs : (ctrlUpdate P s).inputs = s.inputs := by
  simp [ctrlUpdate, trimVolume, deriveFlags]
@[simp] theorem ctrlUpdate_sched : (ctrlUpdate P s).sched = s.sched := by
  simp [ctrlUpdate, trimVolume, deriveFlags]
@[simp] theorem ctrlUpdate_replies : (ctrlUpdate P s).replies = s.replies := by
  simp [ctrlUpdate, trimVolume, deriveFlags]

theorem ctrlUpdate_snap_volume : (ctrlUpdate P s).snap.volume = volumeAfter P s.cf.enc.toInt s.snap.volume := by
  simp [ctrlUpdate, trimVolume, deriveFlags, State.encIncrement, pushParameters_snap_volume]

theorem ctrlUpdate_disp : (ctrlUpdate P s).disp = display (ctrlUpdate P s).snap.volume := by
  simp [ctrlUpdate, trimVolume]

/-- The control update clears CF_ENC and changes nothing else of the control frame (R115). -/
theorem ctrlUpdate_cf : (ctrlUpdate P s).cf = { s.cf with enc := 0 } := by
  simp [ctrlUpdate, trimVolume, deriveFlags]

end ctrlUpdate

/-- The volume after any increment is in [0, ONE] (R116, R136). -/
theorem volumeAfter_bounds (P : Params) (inc : Int) (v : FX64) :
    0 ≤ (volumeAfter P inc v).toInt ∧ (volumeAfter P inc v).toInt ≤ 2 ^ 32 := by
  have h := fclamp_bounds (fadd v (fmul P.volStep (fint inc))) 0 ONE (by decide)
  exact ⟨h.1, h.2⟩

end Sys2Proof.Machine
end

