-- ==== Sys2Proof/Laws/Control.lean ====
section
/-! SUPPORT. The control update in closed form: what each slot maps its knob to, and what the six pushes change. -/

namespace Sys2Proof.Machine

/-- A slot whose evaluation is a draw: LOGARITHMIC with min ≤ 0 or max ≤ 0 (R78). -/
def Slot.drawn (c : Slot) : Bool := decide (c.curve = .logarithmic ∧ (c.min.toInt ≤ 0 ∨ c.max.toInt ≤ 0))

/-- What a slot maps a reading to when `d` free values have been drawn before (R76, R78, R79). -/
def Slot.value (K : Kernels) (c : Slot) (raw : FX64) (d : Nat) : FX64 :=
  if c.curve = .linear then linmap c.min c.max raw
  else if c.drawn then Config.draw d
  else logCurve K.logMid c.min c.max raw

/-- The state after a slot's evaluation, apart from the check of the reading (R78). -/
def State.afterMap (c : Slot) (s : State) : State :=
  { s with draws := s.draws + (if c.drawn then 1 else 0), viol := s.viol ++ (if c.drawn then [.logCfg] else []) }

/-- A slot's map in closed form (R79). -/
theorem pmap_eq (K : Kernels) (i : Fin Config.nslot) (raw : FX64) (s : State) : pmap K i raw s =
    ((s.require (readingInRange raw) .rawRange).afterMap (s.slot i), (s.slot i).value K raw s.draws) := by
  have hd : (s.require (readingInRange raw) .rawRange).draws = s.draws := by unfold State.require; split <;> rfl
  simp only [pmap, ← hd]
  generalize s.require (readingInRange raw) .rawRange = u
  generalize s.slot i = c
  obtain ⟨mn, mx, cu⟩ := c
  cases cu
  · simp [State.afterMap, Slot.drawn, Slot.value]
  · simp only [logmap]
    split <;> rename_i h <;> simp [State.afterMap, Slot.drawn, Slot.value, h, State.drawValue, State.violate]

/-- A knob's reading is in range (R113, R151). -/
theorem readingInRange_knob (i : Fin Config.nslot) (s : State) : readingInRange (s.knob i) = true := by
  have := (s.cf.knobs[i]).isLt
  have e : (s.knob i).toNat = s.cf.knobs[i].toNat * 2 ^ 16 := by
    simp [State.knob, widenReading, Nat.shiftLeft_eq]; omega
  have := BitVec.toInt_eq_toNat_of_lt (x := s.knob i) (by omega)
  simp only [readingInRange, one_toInt, decide_eq_true_eq]
  omega

/-- A knob's map in closed form (R113, R114). -/
theorem mapKnob_eq (K : Kernels) (i : Fin Config.nslot) (s : State) :
    mapKnob K i s = (s.afterMap (s.slot i), (s.slot i).value K (s.knob i) s.draws) := by
  rw [mapKnob, pmap_eq, readingInRange_knob]; rfl

section afterMap
variable (c : Slot) (s : State) (i : Fin Config.nslot)

@[simp] theorem afterMap_slot : (s.afterMap c).slot i = s.slot i := rfl
@[simp] theorem afterMap_knob : (s.afterMap c).knob i = s.knob i := rfl
@[simp] theorem afterMap_draws : (s.afterMap c).draws = s.draws + (if c.drawn then 1 else 0) := rfl
@[simp] theorem afterMap_viol : (s.afterMap c).viol = s.viol ++ (if c.drawn then [.logCfg] else []) := rfl
/-- A map changes only the draw counter and the violation record. -/
theorem afterMap_eq : s.afterMap c = { s with draws := (s.afterMap c).draws, viol := (s.afterMap c).viol } := rfl

end afterMap

/-- The slots whose maps are draws, in order. -/
def State.drawnSlots (s : State) : List (Fin Config.nslot) :=
  (List.finRange Config.nslot).filter fun j => (s.slot j).drawn

/-- What the control update pushes from slot i (R114). -/
def State.mapped (K : Kernels) (s : State) (i : Fin Config.nslot) : FX64 :=
  (s.slot i).value K (s.knob i) (s.draws + (s.drawnSlots.filter (· < i)).length)

/-- A list of slots counted one by one. -/
theorem count_slots (p : Fin Config.nslot → Bool) :
    let l := (List.finRange Config.nslot).filter p
    let n (i : Fin Config.nslot) := (l.filter (· < i)).length
    let c (i : Fin Config.nslot) := if p i then 1 else 0
    n 0 = 0 ∧ n 1 = c 0 ∧ n 2 = c 0 + c 1 ∧ n 3 = c 0 + c 1 + c 2 ∧ n 4 = c 0 + c 1 + c 2 + c 3 ∧
      n 5 = c 0 + c 1 + c 2 + c 3 + c 4 ∧ l.length = c 0 + c 1 + c 2 + c 3 + c 4 + c 5 := by
  have fr : List.finRange Config.nslot = [0, 1, 2, 3, 4, 5] := by decide
  simp only [fr, List.filter_cons, List.filter_nil]
  cases p 0 <;> cases p 1 <;> cases p 2 <;> cases p 3 <;> cases p 4 <;> cases p 5 <;> decide

/-- The violations of the six maps, one by one. -/
theorem list_slots (p : Fin Config.nslot → Bool) :
    let c (i : Fin Config.nslot) : List Violation := if p i then [.logCfg] else []
    ((List.finRange Config.nslot).filter p).map (fun _ => Violation.logCfg) =
      c 0 ++ (c 1 ++ (c 2 ++ (c 3 ++ (c 4 ++ c 5)))) := by
  have fr : List.finRange Config.nslot = [0, 1, 2, 3, 4, 5] := by decide
  simp only [fr, List.filter_cons, List.filter_nil]
  cases p 0 <;> cases p 1 <;> cases p 2 <;> cases p 3 <;> cases p 4 <;> cases p 5 <;> decide

/-- Step 3 of the control update in closed form (R114, R118). -/
theorem pushParameters_eq (P : Params) (s : State) : pushParameters P s = { s with
    snap := { s.snap with baseFreq := s.mapped P.kernels 2 }
    svf := { s.svf with fc := s.mapped P.kernels 5 }
    lfo := { s.lfo with freq := s.mapped P.kernels 0, amp := s.mapped P.kernels 1 }
    dly := { s.dly with tgt := s.mapped P.kernels 3, fb := s.mapped P.kernels 4 }
    draws := s.draws + s.drawnSlots.length
    viol := s.viol ++ s.drawnSlots.map (fun _ => .logCfg)
      ++ (if delayInRange P (s.mapped P.kernels 3) then [] else [.dlenRange])
      ++ (if gainInRange (s.mapped P.kernels 4) then [] else [.fbRange]) } := by
  obtain ⟨h0, h1, h2, h3, h4, h5, h6⟩ := count_slots fun j => (s.slot j).drawn
  have hl := list_slots fun j => (s.slot j).drawn
  have m (i : Fin Config.nslot) (n : Nat) (h : (s.drawnSlots.filter (· < i)).length = n) :
      (s.slot i).value P.kernels (s.knob i) (s.draws + n) = s.mapped P.kernels i := by rw [State.mapped, h]
  unfold pushParameters
  simp only [mapKnob_eq, afterMap_slot, afterMap_knob, afterMap_draws, Nat.add_assoc]
  have e0 : (s.slot 0).value P.kernels (s.knob 0) s.draws = s.mapped P.kernels 0 := m 0 0 h0
  rw [e0, m 1 _ h1, m 2 _ h2, m 3 _ (h3.trans (by simp only [Nat.add_assoc])),
    m 4 _ (h4.trans (by simp only [Nat.add_assoc])), m 5 _ (h5.trans (by simp only [Nat.add_assoc]))]
  have hd : s.draws + s.drawnSlots.length = _ := congrArg (s.draws + ·) h6
  have hv : s.drawnSlots.map (fun _ => Violation.logCfg) = _ := hl
  rw [hd, hv, delayUpdate_eq]
  simp only [oscSetFreq, oscSetAmp, State.setOscillator, State.oscillator, filterSetFreq, State.afterMap,
    List.append_assoc, Nat.add_assoc]

/-- The control update in closed form (R118). -/
theorem ctrlUpdate_eq (P : Params) (s : State) : ctrlUpdate P s = { s with
    snap := ⟨s.cf.switch[0], s.cf.switch[1], s.cf.switch[2], s.mapped P.kernels 2,
      volumeAfter P s.cf.enc.toInt s.snap.volume⟩
    svf := { s.svf with fc := s.mapped P.kernels 5, mode := if s.cf.switch[2] then .lowpass else .highpass }
    lfo := { s.lfo with freq := s.mapped P.kernels 0, amp := s.mapped P.kernels 1 }
    dly := { s.dly with tgt := s.mapped P.kernels 3, fb := s.mapped P.kernels 4 }
    cf := { s.cf with enc := 0 }
    ack := decide (s.cf.enc.toInt = 1)
    disp := display (volumeAfter P s.cf.enc.toInt s.snap.volume)
    draws := s.draws + s.drawnSlots.length
    viol := s.viol ++ s.drawnSlots.map (fun _ => .logCfg)
      ++ (if delayInRange P (s.mapped P.kernels 3) then [] else [.dlenRange])
      ++ (if gainInRange (s.mapped P.kernels 4) then [] else [.fbRange]) } := by
  rw [ctrlUpdate, pushParameters_eq]; rfl

end Sys2Proof.Machine
end

