-- ==== Sys2Proof/Laws/Decode.lean ====
section
/-! SUPPORT. The fields of a command word and the opcode bytes: packing and reading agree. -/

namespace Sys2Proof

theorem append_toNat {n m : Nat} (x : BitVec n) (y : BitVec m) : (x ++ y).toNat = x.toNat * 2 ^ m + y.toNat := by
  rw [BitVec.toNat_append, ← Nat.shiftLeft_add_eq_or_of_lt y.isLt, Nat.shiftLeft_eq]

/-- A command word as a number (R66). -/
theorem pack_toNat (f : Fields) :
    f.pack.toNat = f.opc.toNat * 2 ^ 24 + f.sel.toNat * 2 ^ 20 + f.rsv.toNat * 2 ^ 16 + f.imm.toNat := by
  simp only [Fields.pack, append_toNat]; omega

/-- The fields of a command word as numbers (R66). -/
theorem fieldsOf_toNat (w : Word) :
    (fieldsOf w).opc.toNat = w.toNat / 2 ^ 24 ∧ (fieldsOf w).sel.toNat = w.toNat / 2 ^ 20 % 16 ∧
      (fieldsOf w).rsv.toNat = w.toNat / 2 ^ 16 % 16 ∧ (fieldsOf w).imm.toNat = w.toNat % 2 ^ 16 := by
  have := w.isLt
  simp only [fieldsOf, BitVec.extractLsb'_toNat, Nat.shiftRight_eq_div_pow]
  exact ⟨by omega, trivial, trivial, by omega⟩

/-- A packed word reads back its fields (R66). -/
@[simp] theorem fieldsOf_pack (f : Fields) : fieldsOf f.pack = f := by
  obtain ⟨h1, h2, h3, h4⟩ := fieldsOf_toNat f.pack
  rw [pack_toNat] at h1 h2 h3 h4
  have := f.opc.isLt; have := f.sel.isLt; have := f.rsv.isLt; have := f.imm.isLt
  have e1 : (fieldsOf f.pack).opc = f.opc := BitVec.eq_of_toNat_eq (by omega)
  have e2 : (fieldsOf f.pack).sel = f.sel := BitVec.eq_of_toNat_eq (by omega)
  have e3 : (fieldsOf f.pack).rsv = f.rsv := BitVec.eq_of_toNat_eq (by omega)
  have e4 : (fieldsOf f.pack).imm = f.imm := BitVec.eq_of_toNat_eq (by omega)
  cases f; simp_all [fieldsOf]

/-- A word is packed from its fields (R66). -/
@[simp] theorem pack_fieldsOf (w : Word) : (fieldsOf w).pack = w := by
  obtain ⟨h1, h2, h3, h4⟩ := fieldsOf_toNat w
  have := w.isLt
  exact BitVec.eq_of_toNat_eq (by rw [pack_toNat]; omega)

/-- The byte of a legal opcode names it. -/
@[simp] theorem ofByte_byte (op : Opcode) : Opcode.ofByte op.byte = some op := by
  cases op <;> decide

/-- A byte that names an opcode is its byte. -/
theorem byte_of_ofByte {b : BitVec 8} {op : Opcode} (h : Opcode.ofByte b = some op) : op.byte = b := by
  have := List.find?_some h
  simpa using this

end Sys2Proof
end

