-- ==== Sys2Proof/Laws/Memory.lean ====
section
/-! SUPPORT. The laws of the entry memories: a write keeps the canonical form and the index bound, and what a read
after it gives. -/

namespace Sys2Proof.Machine.Memory

theorem read_eq_zero_of_forall_ne {m : Memory} {i : Nat} (h : ∀ e ∈ m, e.1 ≠ i) : m.read i = 0 := by
  induction m with
  | nil => rfl
  | cons e t ih =>
    simp only [read, if_neg (h e (by simp))]
    exact ih fun e' he => h e' (by simp [he])

theorem wf_tail {e : Nat × FX64} {t : Memory} (h : Memory.wf (e :: t)) : Memory.wf t :=
  ⟨(List.pairwise_cons.1 h.1).2, fun e' he => h.2 e' (by simp [he])⟩

/-- Every entry of a written memory is the new one or an old one. -/
theorem mem_write {m : Memory} {i : Nat} {v : FX64} {e : Nat × FX64} (h : e ∈ m.write i v) :
    e ∈ m ∨ (e = (i, v) ∧ v ≠ 0) := by
  induction m with
  | nil => unfold write at h; split at h <;> simp_all
  | cons a t ih =>
    unfold write at h
    split at h
    · rcases List.mem_cons.1 h with rfl | h
      · simp
      · rcases ih h with h | h
        · simp [h]
        · exact .inr h
    · split at h <;> split at h <;> simp_all <;> tauto

/-- A write keeps the canonical form. -/
theorem write_wf {m : Memory} (h : m.wf) (i : Nat) (v : FX64) : (m.write i v).wf := by
  induction m with
  | nil => unfold write; split <;> simp_all [Memory.wf]
  | cons a t ih =>
    have ht := wf_tail h
    have hlt : ∀ e ∈ t, a.1 < e.1 := (List.pairwise_cons.1 h.1).1
    unfold write
    split
    · rename_i hai
      refine ⟨List.pairwise_cons.2 ⟨fun e he => ?_, (ih ht).1⟩, fun e he => ?_⟩
      · rcases mem_write he with he | ⟨rfl, -⟩
        · exact hlt e he
        · exact hai
      · rcases List.mem_cons.1 he with rfl | he
        · exact h.2 _ (by simp)
        · exact (ih ht).2 e he
    · split
      · rename_i hai
        split
        · exact ht
        · rename_i hv
          refine ⟨List.pairwise_cons.2 ⟨fun e he => ?_, ht.1⟩, fun e he => ?_⟩
          · have := hlt e he; simp only; omega
          · rcases List.mem_cons.1 he with rfl | he
            · exact hv
            · exact ht.2 e he
      · split
        · exact h
        · rename_i hv
          refine ⟨List.pairwise_cons.2 ⟨fun e he => ?_, h.1⟩, fun e he => ?_⟩
          · simp only
            rcases List.mem_cons.1 he with rfl | he
            · omega
            · have := hlt e he; omega
          · rcases List.mem_cons.1 he with rfl | he
            · exact hv
            · exact h.2 e he

/-- A read after a write to the same entry gives the value written; every other entry reads as before. -/
theorem read_write {m : Memory} (h : m.wf) (i : Nat) (v : FX64) (j : Nat) :
    (m.write i v).read j = if j = i then v else m.read j := by
  induction m with
  | nil =>
    unfold write
    split
    · rename_i hv; subst hv; simp [read]
    · by_cases hji : j = i
      · simp [read, hji]
      · simp [read, hji, Ne.symm hji]
  | cons a t ih =>
    have ht := wf_tail h
    have hlt : ∀ e ∈ t, a.1 < e.1 := (List.pairwise_cons.1 h.1).1
    have h0 : ∀ k ≤ a.1, Memory.read t k = 0 := fun k hk =>
      read_eq_zero_of_forall_ne fun e he => by have := hlt e he; omega
    unfold write
    by_cases hji : j = i
    · subst hji
      rw [if_pos rfl]
      split
      · rename_i haj
        rw [read, if_neg (by omega), ih ht, if_pos rfl]
      · split
        · rename_i haj
          split
          · rename_i hv; rw [hv, h0 j (by omega)]
          · rw [read, if_pos rfl]
        · split
          · rename_i hv; rw [read, if_neg ‹_›, hv, h0 j (by omega)]
          · rw [read, if_pos rfl]
    · rw [if_neg hji]
      split
      · rw [read, read, ih ht, if_neg hji]
      · split
        · rename_i hai
          split
          · rw [read, if_neg (by omega)]
          · rw [read, read, if_neg (Ne.symm hji), if_neg (by omega)]
        · split
          · rfl
          · rw [read, if_neg (Ne.symm hji)]

theorem write_below {m : Memory} {n i : Nat} (h : Memory.Below m n) (hi : i < n) (v : FX64) :
    Memory.Below (m.write i v) n := by
  intro e he
  rcases mem_write he with he | ⟨rfl, -⟩
  · exact h e he
  · exact hi

/-- The empty memory, with nothing listed, has the canonical form. -/
theorem wf_nil : Memory.wf [] := by simp [Memory.wf]

end Sys2Proof.Machine.Memory
end

