-- ==== Sys2Proof/Laws/PerInstr.lean ====
section
/-! SUPPORT. Facts about every command as syntax, one lemma per constructor of Instr. -/

namespace Sys2Proof.Laws.EncodedFields

/-- The encoded word reads back the command's fields, and its reserved bits are 0 (R66). -/
def Statement (i : Instr) : Prop :=
  fieldsOf (encode i) = i.fields ∧ (encode i).extractLsb' 16 4 = 0

theorem of_rsv {i : Instr} (h : i.fields.rsv = 0) : Statement i :=
  have e : fieldsOf (encode i) = i.fields := fieldsOf_pack i.fields
  ⟨e, by rw [← h, ← e]; rfl⟩

theorem nop : Statement .nop := of_rsv rfl
theorem reset : Statement .reset := of_rsv rfl
theorem pmapEval (slot : Fin Config.nslot) : Statement (.pmapEval slot) := of_rsv rfl
theorem oscSetFreq (k : OscId) : Statement (.oscSetFreq k) := of_rsv rfl
theorem oscSetAmp (k : OscId) : Statement (.oscSetAmp k) := of_rsv rfl
theorem oscProcess (k : OscId) : Statement (.oscProcess k) := of_rsv rfl
theorem svfSetFreq : Statement .svfSetFreq := of_rsv rfl
theorem svfSetMode (m : FilterMode) : Statement (.svfSetMode m) := of_rsv rfl
theorem svfProcess : Statement .svfProcess := of_rsv rfl
theorem dlyUpdate : Statement .dlyUpdate := of_rsv rfl
theorem dlyProcess : Statement .dlyProcess := of_rsv rfl
theorem ctrlUpdate : Statement .ctrlUpdate := of_rsv rfl
theorem encApply (n : BitVec 16) : Statement (.encApply n) := of_rsv rfl
theorem sample : Statement .sample := of_rsv rfl
theorem block (n : BitVec 16) : Statement (.block n) := of_rsv rfl

end Sys2Proof.Laws.EncodedFields
end

