-- ==== Sys2Proof/Machine/Configured.lean ====
section
/-! DEFINITION. The machine under any values of the implementation parameters of 00_scope.md R7. `exec`, `step` and
`State.reset` are the ones of this hardware's configuration, `Config.params`; a claim about another configuration is
stated of `execFor`, `stepFor` and `State.resetFor`. -/

namespace Sys2Proof.Machine

/-- The effect of a command under the parameters `P` (30_encoding.md R69). -/
def execFor (P : Params) (i : Instr) (s : State) : State :=
  match i with
  | .nop => s
  | .reset => resetDatapath P s
  | .pmapEval slot => pmapEval P.kernels slot s
  | .oscSetFreq k => oscSetFreq k s.arg0 s
  | .oscSetAmp k => oscSetAmp k s.arg0 s
  | .oscProcess k => oscProcessCmd P k s
  | .svfSetFreq => filterSetFreq s.arg0 s
  | .svfSetMode m => filterSetMode m s
  | .svfProcess => svfProcessCmd P s
  | .dlyUpdate => delayUpdate P s.arg0 s.arg1 s
  | .dlyProcess => dlyProcessCmd P s
  | .ctrlUpdate => ctrlUpdate P s
  | .encApply n => volumeStep P (immIncrement n) s
  | .sample => sampleCmd P s
  | .block n => blockCmd P (immSize n) s

/-- `EngineStep()` for the pending word `w` under the parameters `P` (R123). -/
def engineStepFor (P : Params) (w : Word) (s : State) : State :=
  match decodeFor P w with
  | .error reason => (s.recordCmdError reason w).retire
  | .ok i => (execFor P i s).retire

/-- One step under the parameters `P` (R23). -/
def stepFor (P : Params) (s : State) : Host.Outcome State Fault Refusal :=
  match s.pend with
  | none => hostStep P s
  | some w => if s.engineMoves then .next (engineStepFor P w s) else hostStep P s

/-- The machine right after power-on reset under the parameters `P` (R47, R146). -/
def State.resetFor (P : Params) : State := powerOnReset P State.reset

end Sys2Proof.Machine
end

