-- ==== Sys2Proof/Laws/Step.lean ====
section
/-! SUPPORT. What a step can do, said once, and the frames of the host's accesses. -/

namespace Sys2Proof.Machine

/-- Every step that answers a next state is one of four: an idle step, a host event, the rejection of the pending word,
or the execution of the command it decodes to. -/
theorem step_cases {s t : State} (h : step s = .next t) :
    (s.pend = none ∧ s.inputs = [] ∧ t = s.usePick) ∨
    (∃ e rest, s.inputs = e :: rest ∧ e.legal = true ∧ s.engineMoves = false ∧ t = (s.hostAct Config.params e).usePick) ∨
    (∃ w c, s.pend = some w ∧ s.engineMoves = true ∧ decode w = .error c ∧ t = (s.recordCmdError c w).retire) ∨
    (∃ w i u, s.pend = some w ∧ s.engineMoves = true ∧ decode w = .ok i ∧ exec i s = .next u ∧ t = u.retire) := by
  unfold step at h
  have host : s.engineMoves = false → hostStep Config.params s = .next t → (s.inputs = [] ∧ t = s.usePick) ∨
      (∃ e rest, s.inputs = e :: rest ∧ e.legal = true ∧ s.engineMoves = false ∧ t = (s.hostAct Config.params e).usePick) := by
    intro hm h
    unfold hostStep at h
    split at h
    · exact .inl ⟨‹_›, by injection h with h; exact h.symm⟩
    · split at h
      · exact .inr ⟨_, _, ‹_›, ‹_›, hm, by injection h with h; exact h.symm⟩
      · cases h
  split at h
  · rename_i hp
    have hm : s.engineMoves = false := by simp [State.engineMoves, State.busy, hp]
    rcases host hm h with h | h
    · exact .inl ⟨hp, h⟩
    · exact .inr (.inl h)
  · rename_i w hp
    by_cases hm : s.engineMoves
    · rw [if_pos hm] at h
      unfold engineStep at h
      split at h
      · exact .inr (.inr (.inl ⟨w, _, hp, hm, ‹_›, by injection h with h; exact h.symm⟩))
      · split at h
        · exact .inr (.inr (.inr ⟨w, _, _, hp, hm, ‹_›, ‹_›, by injection h with h; exact h.symm⟩))
        · cases h
        · cases h
    · rw [if_neg hm] at h
      rcases host (by simpa using hm) h with ⟨he, -⟩ | h
      · simp [State.engineMoves, State.busy, State.hostEnabled, hp, he] at hm
      · exact .inr (.inl h)

/-- Every command's meaning is its effect under this hardware's parameters. -/
theorem exec_eq (i : Instr) (s : State) : exec i s = .next (execFor Config.params i s) := by
  cases i <;> rfl

/-- The step of this hardware is the step under its parameters. -/
theorem step_eq (s : State) : step s = stepFor Config.params s := by
  cases hp : s.pend with
  | none => simp only [step, stepFor, hp]
  | some w =>
    simp only [step, stepFor, hp]
    split
    · unfold engineStep engineStepFor decode
      split <;> simp_all [exec_eq]
    · rfl

/-- The reset state of this hardware is the reset state under its parameters. -/
theorem reset_eq : State.reset = State.resetFor Config.params := by decide

/-- A host read changes nothing but the host's record and the draw counter (R56). -/
theorem hostRead_eq (P : Params) (a : Addr) (s : State) :
    s.hostRead P a = { s with replies := (s.hostRead P a).replies, draws := (s.hostRead P a).draws } := by
  unfold State.hostRead; split <;> rfl

theorem noteBusyWrite_eq (s : State) :
    s.noteBusyWrite = { s with viol := s.viol ++ if !s.busy then [] else [.busyWrite] } :=
  require_eq _ _ _

/-- Storing in a register changes only the operand registers, the control frame and the configuration. -/
theorem storeReg_eq (r : HostReg) (v : Word) (s : State) :
    s.storeReg r v =
      { s with regs := (s.storeReg r v).regs, cf := (s.storeReg r v).cf, cfg := (s.storeReg r v).cfg } := by
  cases r with
  | word r => cases r <;> rfl
  | lo r => cases r <;> rfl
  | hi r => cases r <;> rfl

/-- A store changes only ARG0 and ARG1 among the operand registers. -/
theorem storeReg_regs (r : HostReg) (v : Word) (s : State) :
    (s.storeReg r v).regs =
      { s.regs with arg0 := (s.storeReg r v).regs.arg0, arg1 := (s.storeReg r v).regs.arg1 } := by
  cases r with
  | word r => cases r <;> rfl
  | lo r => cases r <;> rfl
  | hi r => cases r <;> rfl

/-- A host write changes only what a register write may change (R56 to R59, R122). -/
theorem hostWrite_eq (P : Params) (a : Addr) (v : Word) (s : State) :
    s.hostWrite P a v =
      { s with
        pend := (s.hostWrite P a v).pend
        regs := (s.hostWrite P a v).regs
        cf := (s.hostWrite P a v).cf
        cfg := (s.hostWrite P a v).cfg
        cfgLock := (s.hostWrite P a v).cfgLock
        err := (s.hostWrite P a v).err
        viol := (s.hostWrite P a v).viol } := by
  unfold State.hostWrite
  split
  · rename_i r _
    unfold State.writeReg
    rw [noteBusyWrite_eq]
    split
    · split
      · rfl
      · rw [storeReg_eq]
    · split
      · rw [storeReg_eq]
      · split
        · rfl
        · split
          · rfl
          · split
            · unfold State.writeCommand; split <;> rfl
            · rfl
  · rfl

end Sys2Proof.Machine
end

