-- ==== Sys2Proof/Tests/Slice0.lean ====
section
/-! SUPPORT. The model's own tests. Expected values come from spec/: the encoding tables of 30_encoding.md and the vectors of
95_test_vectors.md, whose names (T-PM.4, P5, …) stand beside each. Then one witness for each statement with hypotheses. -/

namespace Sys2Proof.Tests

open Sys2Proof Sys2Proof.Machine

/-- The outcome is a next state of which `p` holds. -/
def answers (o : Host.Outcome State Fault Refusal) (p : State → Bool) : Bool :=
  match o with
  | .next t => p t
  | .fault _ => false
  | .refused _ => false

/-- Kernels for tests: this hardware's, with the filter SVF_ID (R93). -/
def testKernels : Kernels := { Config.kernels with svf := fun _ _ _ s1 s2 x => ⟨s1, s2, x, x⟩ }

/-- This hardware's parameters with the test kernels. -/
def testParams : Params := { kernels := testKernels }

/-- Reset state with ARG0 and ARG1. -/
def withArgs (a b : FX64) : State :=
  { State.reset with regs := { State.reset.regs with arg0 := a, arg1 := b } }

/-- Reset state with slot 0 as given and ARG0 the reading. -/
def withSlot0 (c : Slot) (raw : FX64) : State :=
  (withArgs raw 0).setSlot 0 c

/-- Reset state with a pending command word. -/
def pending (w : Word) : State := { State.reset with pend := some w }

/-- A linear slot between two integers. -/
def linSlot (a b : Int) : Slot := ⟨fint a, fint b, .linear⟩

/-- CFG-A of 95_test_vectors.md section 3. -/
def cfgA : Configuration where
  slots := ⟨#[linSlot 6000 18000, linSlot 6000 6000, linSlot 8000 16000, linSlot 0 96000, linSlot 0 1,
    linSlot 100 20000], rfl⟩
  svfRes := 0
  svfDrive := 0
  oscAmp := ONE

/-- The state before the BLOCK of program P1. -/
def p1Start : State :=
  { State.reset with cfg := cfgA, cf := ⟨7, 20, ⟨#[0x8000, 0x8000, 0x8000, 0x8000, 0, 0x8000], rfl⟩⟩ }

/-! ### WellFormed -/

/-- R68: the block size is at most BLK_MAX = 256. -/
theorem test_wellFormed_refuses_block_257 : (Instr.block 257).wellFormed = false := by decide
theorem test_wellFormed_admits_block_256 : (Instr.block 256).wellFormed = true := by decide
/-- A command that no check can fail. -/
theorem test_wellFormed_admits_encApply : (Instr.encApply 0x8000).wellFormed = true := by decide

/-! ### Decoding: words written out from the table of R70 -/

theorem test_decode_nop : decode 0x00000000#32 = .ok .nop := by rfl
theorem test_decode_reset : decode 0x01000000#32 = .ok .reset := by rfl
theorem test_decode_pmapEval : decode 0x10500000#32 = .ok (.pmapEval 5) := by rfl
theorem test_decode_oscSetFreq : decode 0x20100000#32 = .ok (.oscSetFreq .lfo) := by rfl
theorem test_decode_oscSetAmp : decode 0x21000000#32 = .ok (.oscSetAmp .osc) := by rfl
theorem test_decode_oscProcess : decode 0x22100000#32 = .ok (.oscProcess .lfo) := by rfl
theorem test_decode_svfSetFreq : decode 0x30000000#32 = .ok .svfSetFreq := by rfl
theorem test_decode_svfSetMode : decode 0x31000001#32 = .ok (.svfSetMode .highpass) := by rfl
theorem test_decode_svfProcess : decode 0x32000000#32 = .ok .svfProcess := by rfl
theorem test_decode_dlyUpdate : decode 0x40000000#32 = .ok .dlyUpdate := by rfl
theorem test_decode_dlyProcess : decode 0x41000000#32 = .ok .dlyProcess := by rfl
theorem test_decode_ctrlUpdate : decode 0x50000000#32 = .ok .ctrlUpdate := by rfl
theorem test_decode_encApply : decode 0x5100FFFF#32 = .ok (.encApply (-1)) := by rfl
theorem test_decode_sample : decode 0x60000000#32 = .ok .sample := by rfl
theorem test_decode_block : decode 0x61000100#32 = .ok (.block 256) := by rfl

/-- T-EN.7 to T-EN.17, and the order of the checks. -/
theorem test_decode_rejections :
    [0x61000101#32, 0x00010000#32, 0x10600000#32, 0x22200000#32, 0x30000001#32, 0x31000002#32, 0x50100000#32,
      0x02000000#32, 0xFF1F0000#32, 0x61100101#32, 0x6100FFFF#32].map (fun w => (decode w).toBool) =
      List.replicate 11 false ∧
    decode 0x61000101#32 = .error .badSize ∧ decode 0x00010000#32 = .error .badRsv ∧
    decode 0x22200000#32 = .error .badSel ∧ decode 0x31000002#32 = .error .badImm ∧
    decode 0xFF1F0000#32 = .error .badOpc ∧ decode 0x61100101#32 = .error .badSel := by
  refine ⟨by decide, ?_, ?_, ?_, ?_, ?_, ?_⟩ <;> rfl

theorem test_encode_words :
    encode (.pmapEval 3) = 0x10300000#32 ∧ encode (.oscProcess .lfo) = 0x22100000#32 ∧
    encode (.svfSetMode .highpass) = 0x31000001#32 ∧ encode (.encApply (-1)) = 0x5100FFFF#32 ∧
    encode (.block 48) = 0x61000030#32 := by decide

/-- The host's two questions, on one word. -/
theorem test_decodeTableWord : decodeTableWord 32 0x20100000 = some (.oscSetFreq .lfo) := by rfl
theorem test_withFetchWord_runs :
    answers (step (State.reset.withFetchWord 32 0x51000006)) (fun t =>
      t.snap.volume == 0x000000004CCCCCCE#64 && t.pend == none) = true := by decide +kernel

/-! ### Numbers (R14, R16, R18) -/

theorem test_design_constants : testParams.smoothRate = flit 2 10000 ∧ testParams.volStep = flit 5 100 ∧ HALF = flit 1 2 ∧
    Config.segW = flit 1 8 ∧ Config.nseg * Config.segW.toInt = ONE.toInt := by decide
/-- R8: a configuration that sets SR changes CAP with it, and the smallest block bound refuses BLOCK 1. -/
theorem test_parameters_override :
    { testParams with sampleRate := 44100, sampleRate_pos := by decide : Params }.cap = 110250 ∧
    (decodeFor { testParams with blkMax := 0, blkMax_le := by decide } 0x61000001#32).toBool = false := by decide
/-- The worked examples of R14 and R18. -/
theorem test_fmul_rounds_down : fmul 3#64 HALF = 1#64 ∧ fmul (-3#64) HALF = -2#64 := by decide
theorem test_phinc : phinc testParams (fint 12000) = 0x40000000#32 ∧ phinc testParams (fint 440) = 0x0258BF25#32 := by decide

/-! ### ParameterMap -/

/-- T-PM.4. -/
theorem test_pmapEval_rounds :
    answers (exec (.pmapEval 0) (withSlot0 (linSlot 100 1100) 1)) (fun t =>
      t.regs.res0 == 0x00000064000003E8#64 && t.viol == []) = true := by decide +kernel
/-- T-PM.7. -/
theorem test_pmapEval_below_range :
    answers (exec (.pmapEval 0) (withSlot0 (linSlot 100 1100) (-1))) (fun t =>
      t.regs.res0 == 0x00000063FFFFFC18#64 && t.viol == [.rawRange]) = true := by decide +kernel
/-- T-PM.10. -/
theorem test_linmap_saturates :
    linmap 0x8000000000000000#64 0x7FFFFFFFFFFFFFFF#64 HALF = 0xBFFFFFFFFFFFFFFF#64 := by decide
/-- T-PM.14. -/
theorem test_pmapEval_draws :
    answers (exec (.pmapEval 0) (withSlot0 ⟨0, fint 20000, .logarithmic⟩ HALF)) (fun t =>
      t.viol == [.logCfg] && t.draws == 1) = true := by decide +kernel

/-- T-PM.12 and T-PM.13: LOGMAP_REF is this hardware's curve. -/
theorem test_logmapRef :
    logCurve Config.kernels.logMid (fint 20) (fint 20000) HALF = 0x00000278749DBF53#64 ∧
    logCurve Config.kernels.logMid (fint 1) (fint 16) 0x40000000#64 = 0x0000000200000000#64 := by decide +kernel
/-- I2: outside [0, ONE] the formula's value, 1 × 16^2, 1 × 16^−1 and, saturated, 1 × 16^8 = 2^32; R81: a constant range. -/
theorem test_logmapRef_outside_range :
    logCurve Config.kernels.logMid (fint 1) (fint 16) (fint 2) = fint 256 ∧
    logCurve Config.kernels.logMid (fint 1) (fint 16) (-ONE) = 0x0000000010000000#64 ∧
    logCurve Config.kernels.logMid (fint 1) (fint 16) (fint 8) = 0x7FFFFFFFFFFFFFFF#64 ∧
    logCurve Config.kernels.logMid (fint 5) (fint 5) (fint 8) = fint 5 := by decide +kernel

/-! ### Oscillator and LFO -/

/-- T-OS.12 and T-OS.13: SIN_REF is this hardware's sine. -/
theorem test_sinRef :
    sinCurve Config.kernels.sinMid 0x20000000#32 = 0x00000000B504F334#64 ∧
    fmul (sinCurve Config.kernels.sinMid 0xA0000000#32) HALF = 0xFFFFFFFFA57D8666#64 := by decide +kernel

/-- T-OS.15. -/
theorem test_oscSetFreq :
    answers (exec (.oscSetFreq .lfo) (withArgs (fint 440) 0)) (fun t =>
      t.lfo.freq == 0x000001B800000000#64 && t.osc == State.reset.osc) = true := by decide +kernel
/-- T-OS.16. -/
theorem test_oscSetAmp :
    answers (exec (.oscSetAmp .osc) (withArgs HALF 0)) (fun t =>
      t.osc.amp == 0x0000000080000000#64 && t.lfo == State.reset.lfo) = true := by decide +kernel
/-- T-OS.5. -/
theorem test_oscProcess_saturates :
    answers (exec (.oscProcess .osc)
      { State.reset with osc := ⟨fint 12000, 0x8000000000000000#64, 0x80000000#32⟩ }) (fun t =>
      t.regs.res0 == 0x7FFFFFFFFFFFFFFF#64 && t.osc.phase == 0xC0000000#32) = true := by decide +kernel
/-- T-OS.11. -/
theorem test_oscProcess_lfo :
    answers (exec (.oscProcess .lfo) { State.reset with lfo := ⟨fint 12000, fint 6000, 0xC0000000#32⟩ }) (fun t =>
      t.regs.res0 == 0xFFFFE89000000000#64 && t.lfo.phase == 0#32) = true := by decide +kernel

/-! ### Filter -/

/-- T-FL.6. -/
theorem test_svfSetFreq :
    answers (exec .svfSetFreq (withArgs (fint 1000) 0)) (fun t =>
      t.svf.fc == 0x000003E800000000#64 && t.viol == []) = true := by decide +kernel
/-- T-FL.5. -/
theorem test_svfSetMode :
    answers (exec (.svfSetMode .highpass) { State.reset with svf := ⟨0, .lowpass, 7, 9⟩ }) (fun t =>
      t.svf == ⟨0, .highpass, 7, 9⟩) = true := by decide +kernel
/-- T-FL.4, with a kernel that tells the taps apart, and T-FL.7. -/
theorem test_svfProcess_highpass :
    let t := svfProcessCmd { kernels := { testKernels with svf := fun _ _ _ s1 s2 x => ⟨s1 + 1, s2 + 2, x, 5⟩ } }
      { withArgs HALF 0 with svf := ⟨fint 24000, .highpass, 0, 0⟩ }
    t.regs.res0 = 5 ∧ t.regs.res1 = HALF ∧ t.svf.s1 = 1 ∧ t.svf.s2 = 2 ∧ t.viol = [.fcRange] := by decide +kernel

/-! ### Delay line -/

/-- T-DL.2, T-DL.4, T-DL.5. -/
theorem test_smooth :
    smooth testParams 0x00000063FFFFEC77#64 (fint 100) = 0x00000063FFFFEC78#64 ∧
    smooth testParams 0x0000006400001389#64 (fint 100) = 0x0000006400001387#64 ∧
    smooth testParams 0 (fint 24000) = 0x00000004CCCCA1C0#64 := by decide
/-- T-DL.7 and T-DL.9. -/
theorem test_delayTap :
    delayTap testParams { State.reset with dly := ⟨[(3, ONE)], 5, 0x0000000280000000#64, 0, 0⟩ } = HALF ∧
    delayTap testParams { State.reset with dly := ⟨[(119999, ONE)], 0, ONE, 0, 0⟩ } = ONE := by decide +kernel
/-- T-DL.13. -/
theorem test_dlyUpdate :
    answers (exec .dlyUpdate (withArgs 0x0001D4C000000000#64 ONE)) (fun t =>
      t.dly.tgt == 0x0001D4C000000000#64 && t.dly.fb == ONE && t.dly.cur == 0 && t.viol == [.dlenRange]) = true := by
  decide +kernel
/-- P5, the second DLY_PROCESS. -/
theorem test_dlyProcess :
    let t := dlyProcessCmd testParams { State.reset with
      svf := ⟨fint 1000, .lowpass, 0, 0⟩, dly := ⟨[(0, ONE)], 1, 0x00000000001A36E2#64, fint 2, HALF⟩ }
    t.dly = ⟨[(0, ONE), (1, 0x00000000001A3636#64)], 2, 0x0000000000346C6C#64, fint 2, HALF⟩ ∧
    t.regs.res0 = 0x00000000001A3636#64 ∧ t.regs.res1 = 0x0000000000346C6C#64 ∧ t.viol = [] := by decide +kernel

/-! ### Control -/

/-- T-CT.17. -/
theorem test_ctrlUpdate :
    answers (exec .ctrlUpdate { State.reset with cf := ⟨5, 0x0014, Vector.replicate 6 0⟩ }) (fun t =>
      t.snapWord == 5 && t.svf.mode == .lowpass && t.snap.volume == ONE && t.ack == false &&
      t.disp == Vector.replicate 8 0x10000 && t.cf.enc == 0 && t.dly.tgt == 0 && t.viol == []) = true := by
  decide +kernel
/-- T-CT.22. -/
theorem test_ctrlUpdate_maps_knobs :
    answers (exec .ctrlUpdate p1Start) (fun t =>
      t.lfo.freq == fint 12000 && t.lfo.amp == fint 6000 && t.snap.baseFreq == fint 12000 &&
      t.dly.tgt == 0x0000BB8000000000#64 && t.dly.fb == 0 && t.svf.fc == 0x0000274200000000#64) = true := by
  decide +kernel
/-- The example of R121, with T-CT.10, and T-CT.7c. -/
theorem test_encApply :
    answers (exec (.encApply 6) State.reset) (fun t =>
      t.snap.volume == 0x000000004CCCCCCE#64 && t.ack == false &&
      t.disp == ⟨#[0x10000, 0x10000, 0x6666, 0, 0, 0, 0, 0], rfl⟩) = true ∧
    volumeAfter testParams (-1) 0x000000004CCCCCCE#64 = 0x0000000040000001#64 := by decide +kernel
/-- T-CT.13 and T-CT.14. -/
theorem test_display :
    display 0x000000007FFFFFFF#64 = ⟨#[0x10000, 0x10000, 0x10000, 0xFFFF, 0, 0, 0, 0], rfl⟩ ∧
    display 0x00000000FFFFFFFF#64 =
      ⟨#[0x10000, 0x10000, 0x10000, 0x10000, 0x10000, 0x10000, 0x10000, 0xFFFF], rfl⟩ := by decide

/-! ### Engine -/

theorem test_nop : answers (step (pending 0)) (fun t => t == State.reset) = true := by decide +kernel
/-- T-EG.4, and OSC_AMP (R156). -/
theorem test_reset :
    answers (exec .reset { p1Start with
      cfgLock := true, cfg := { cfgA with oscAmp := HALF }, err := ⟨true, true, true, some .badSel, 7⟩ }) (fun t =>
      t.statusWord == 0 && t.ctrlWord == 1 && t.causeWord == 0 && t.osc.amp == HALF && t.cf == p1Start.cf) = true := by
  decide +kernel
/-- T-EG.5, the tick's first ONE sample, at volume ONE. -/
theorem test_sample :
    let t := sampleCmd testParams { State.reset with
      snap := ⟨false, true, true, fint 12000, ONE⟩, lfo := ⟨fint 12000, fint 6000, 0x40000000#32⟩ }
    t.osc.freq = fint 18000 ∧ t.regs.outL = ONE ∧ t.regs.res1 = ONE ∧ t.lfo.phase = 0x80000000#32 ∧
    t.dly.w = 1 := by decide +kernel
/-- P1: the block of four ticks. -/
theorem test_block :
    let t := blockCmd testParams 4 p1Start
    (List.range 5).map (fun k => t.readOutbuf k 1) =
      [ONE, ONE, 0xFFFFFFFF00000000#64, 0xFFFFFFFF00000000#64, 0] ∧
    t.dly.cur = 0x0000002663722E71#64 ∧ t.dly.w = 4 ∧ t.osc.phase = 0 ∧ t.regs.outL = 0xFFFFFFFF00000000#64 ∧
    t.viol = [] := by decide +kernel

/-! ### Host interface -/

/-- P3, lines 1 to 5: the first error is kept, and CLRERR keeps the record. -/
theorem test_command_errors :
    answers (core.run 7 { State.reset with
      inputs := [wr (.word .command) 0x10600000, .wait, wr (.word .command) 0x61000101, .wait, clrErrLine] }) (fun t =>
      t.statusWord == 0 && t.causeWord == 3 && t.err.word == 0x10600000) = true := by decide +kernel
/-- P3, lines 8 and 9, then a read of SLOT0_MIN_LO and of STATUS. -/
theorem test_lock :
    answers (core.run 4 { State.reset with
      inputs := [lockLine, wr (.lo (.slotMin 0)) 5, rd (.lo (.slotMin 0)), .read 0x00C 4] }) (fun t =>
      t.replies == [(0x00C, 8), (0x100, 0)]) = true := by decide +kernel
/-- R33, R47 and R57: ID, VERSION, SNAP, SLOT5_MAX_HI, and the unmapped 0x300. -/
theorem test_reset_registers :
    answers (core.run 5 { State.reset with inputs := [0x000, 0x004, 0x014, 0x1AC, 0x300].map (HostEvent.read · 4) })
      (fun t => t.replies.map Prod.snd == [0, 1, 4, 0x00070000, 0x464C5344]) = true := by decide +kernel

/-! ### Witnesses -/

/-- A kernel with the contracts. -/
theorem witness_kernels : Nonempty Kernels := ⟨testKernels⟩

theorem witness_EncodedCommandDecodesToItself :
    (Instr.block 256).wellFormed = true ∧ (Instr.pmapEval 5).wellFormed = true := by decide

theorem witness_DecodedWordIsTheEncoding : decode 0x61000100#32 = .ok (.block 256) := by rfl

/-- A word for each clause, at a boundary of its field. -/
theorem witness_FirstFailingCheckIsReported :
    decode 0x62000000#32 = .error .badOpc ∧ decode 0x61010101#32 = .error .badRsv ∧
    decode 0x10600000#32 = .error .badSel ∧ decode 0x31000002#32 = .error .badImm ∧
    decode 0x61000101#32 = .error .badSize ∧ decode 0x61000100#32 = .ok (.block 256) := by
  refine ⟨?_, ?_, ?_, ?_, ?_, ?_⟩ <;> rfl

theorem witness_StepExecutesPendingCommand :
    (pending 0).pend = some 0#32 ∧ decode 0#32 = .ok .nop ∧ (pending 0).hostEnabled = false ∧
    exec .nop (pending 0) = .next (pending 0) := ⟨rfl, rfl, rfl, rfl⟩

theorem witness_RejectedWordOnlyRecordsTheError :
    (pending 0x61000101).pend = some 0x61000101#32 ∧ decode 0x61000101#32 = .error .badSize ∧
    (pending 0x61000101).hostEnabled = false := ⟨rfl, rfl, rfl⟩

theorem witness_FetchedWordRunsNext :
    Instr.nop.wellFormed = true ∧
    ∃ t, exec .nop { State.reset with pend := some (encode .nop), sched := .engine :: State.reset.sched } = .next t :=
  ⟨rfl, _, rfl⟩

theorem witness_IdleMachineHoldsItsState : State.reset.pend = none ∧ State.reset.inputs = [] := ⟨rfl, rfl⟩

/-- A misaligned read and a narrow write, while IDLE and while a command is pending. -/
theorem witness_AccessOutsideTheInterfaceStopsTheHost :
    ((0x001#13).toNat % 4 ≠ 0 ∧ { State.reset with inputs := [.read 0x001 4] }.inputs = [.read 0x001#13 4] ∧
      { State.reset with inputs := [.read 0x001 4] }.pend = none) ∧
    ((3 : Nat) ≠ 4 ∧ { pending 0 with inputs := [.write 0x000 3 0] }.inputs = [.write 0x000#13 3 0] ∧
      { pending 0 with inputs := [.write 0x000 3 0] }.pend = some 0#32) := by
  refine ⟨⟨by decide, rfl, rfl⟩, by decide, rfl, rfl⟩

theorem witness_EveryCommandCompletes : (Instr.block 256).wellFormed = true ∧ Instr.nop.wellFormed = true := by decide

theorem witness_ProductRoundsDown :
    (-2 ^ 31 : Int) ≤ -2 ^ 31 ∧ (-2 ^ 31 : Int) < 2 ^ 31 ∧ (2 ^ 31 - 1 : Int) < 2 ^ 31 := by decide

/-- A linear slot, a legal logarithmic one, and the two misconfigurations. -/
theorem witness_PmapEvalWritesTheMappedValue :
    (withSlot0 (linSlot 0 1) ONE).cfg.slots[0].curve = .linear ∧
    (let c := (withSlot0 ⟨1, 1, .logarithmic⟩ ONE).cfg.slots[0]
     c.curve = .logarithmic ∧ 0 < c.min.toInt ∧ 0 < c.max.toInt) ∧
    (let c := (withSlot0 ⟨0, 1, .logarithmic⟩ ONE).cfg.slots[0]
     c.curve = .logarithmic ∧ c.min.toInt ≤ 0) ∧
    (let c := (withSlot0 ⟨1, 0, .logarithmic⟩ ONE).cfg.slots[0]
     c.curve = .logarithmic ∧ c.max.toInt ≤ 0) := by
  decide +kernel

/-- An increasing and a decreasing slot, over the whole range of readings. -/
theorem witness_LinearMapStaysInRange :
    |(fint 1100).toInt - (fint 100).toInt| < 2 ^ 63 ∧ (fint 100).toInt ≤ (fint 1100).toInt ∧
    |(fint 100).toInt - (fint 1100).toInt| < 2 ^ 63 ∧ 0 ≤ (0 : FX64).toInt ∧ (0 : FX64).toInt ≤ ONE.toInt ∧
    ONE.toInt ≤ 2 ^ 32 := by decide

theorem witness_LogMapMeetsItsContract :
    Nonempty Kernels ∧ 0 < (fint 20).toInt ∧ (fint 20).toInt ≤ (fint 20000).toInt ∧ 0 ≤ (0 : FX64).toInt ∧
    (0 : FX64).toInt ≤ ONE.toInt ∧ ONE.toInt ≤ 2 ^ 32 := ⟨⟨testKernels⟩, by decide⟩

/-- The whole period at 4 calls. -/
theorem witness_PhaseGainsOneIncrementPerCall :
    4 * (phinc testParams ({ State.reset with osc := ⟨fint 12000, ONE, 0⟩ }.oscillator .osc).freq).toNat % 2 ^ 32 = 0 := by decide

/-- The edges of the stall band, a falling step, and the target. -/
theorem witness_SmoothingNeverOvershoots :
    (5000#64).toInt - (0#64).toInt = 5000 ∧ (5001#64).toInt - (0#64).toInt = 5001 ∧
    (0#64).toInt - (1#64).toInt = -1 ∧ (7#64).toInt - (7#64).toInt = 0 := by decide

theorem witness_OneTickStoresOneEntry :
    State.reset.dly.buf.wf ∧ (∃ t, exec .dlyProcess State.reset = .next t) ∧ (∃ t, exec .sample State.reset = .next t) ∧
    119999 ≠ State.reset.dly.w := ⟨by decide, ⟨_, rfl⟩, ⟨_, rfl⟩, by decide⟩

theorem witness_GainSelectsDryOrWet :
    State.reset.dly.buf.wf ∧ State.reset.dly.fb = 0 ∧
    { State.reset with dly := ⟨[], 0, 0, 0, ONE⟩ }.dly.buf.wf ∧ { State.reset with dly := ⟨[], 0, 0, 0, ONE⟩ }.dly.fb = ONE :=
  ⟨by decide, rfl, by decide, rfl⟩

theorem foldl_delayWrite_cur (l : List (FX64 × FX64)) (s : State) :
    (l.foldl (fun u p => delayWrite Config.params p.1 p.2 u) s).dly.cur = s.dly.cur := by
  induction l generalizing s with
  | nil => rfl
  | cons p l ih => rw [List.foldl_cons, ih]; rfl

/-- The shortest and the longest integer delay. -/
theorem witness_IntegerDelayReadsTheValueWritten (n : Nat) (h : n = 0 ∨ n = 119998) :
    let s := { State.reset with dly := ⟨[], 119999, fint (n + 1), 0, 0⟩ }
    let later := List.replicate n ((0 : FX64), (0 : FX64))
    s.dly.buf.wf ∧ s.dly.w < Config.params.cap ∧ later.length + 1 ≤ Config.params.cap - 1 ∧
    (later.foldl (fun u p => delayWrite Config.params p.1 p.2 u) (delayWrite Config.params 0 0 s)).dly.cur = fint (later.length + 1) := by
  refine ⟨Memory.wf_nil, (by decide : 119999 < Config.params.cap), ?_, ?_⟩
  · rw [List.length_replicate]; rcases h with rfl | rfl <;> decide
  · rw [foldl_delayWrite_cur, List.length_replicate]; rfl

/-- Both ends of the volume. -/
theorem witness_EncApplyStepsTheVolume :
    (0 ≤ State.reset.snap.volume.toInt ∧ State.reset.snap.volume.toInt ≤ 2 ^ 32) ∧ (0 ≤ ONE.toInt ∧ ONE.toInt ≤ 2 ^ 32) := by
  decide

theorem witness_DisplayShowsTheVolume :
    (0 ≤ (0 : FX64).toInt ∧ (0 : FX64).toInt ≤ 2 ^ 32) ∧ (0 ≤ ONE.toInt ∧ ONE.toInt ≤ 2 ^ 32) := by decide

theorem witness_ControlDependsOnlyOnFrameAndConfig :
    { p1Start with osc := ⟨1, 2, 3⟩ }.cf = p1Start.cf ∧ { p1Start with osc := ⟨1, 2, 3⟩ }.cfg = p1Start.cfg ∧
    { p1Start with osc := ⟨1, 2, 3⟩ }.draws = p1Start.draws := ⟨rfl, rfl, rfl⟩

theorem witness_HistoryBeforeResetIsForgotten :
    let s' := { p1Start with osc := ⟨1, 2, 3⟩, dly := ⟨[(5, 1)], 6, 1, 2, 3⟩ }
    s'.cfg = p1Start.cfg ∧ s'.cf = p1Start.cf ∧ s'.regs.arg0 = p1Start.regs.arg0 ∧ s'.regs.arg1 = p1Start.regs.arg1 ∧
    s'.draws = p1Start.draws ∧ ∀ i ∈ [Instr.block 256, Instr.sample], i.wellFormed = true :=
  ⟨rfl, rfl, rfl, rfl, rfl, by decide⟩

/-- The smallest and the largest block. -/
theorem witness_BlockFillsTheOutputBuffer :
    (0 : BitVec 16).toNat ≤ 256 ∧ (256 : BitVec 16).toNat ≤ 256 ∧ p1Start.outbuf.wf := by decide

theorem witness_BlockIsOneMoreTick : 0 < 256 ∧ 255 < 256 ∧ p1Start.outbuf.wf := by decide

theorem witness_SnapshotIsConstantInABlock : (256 : BitVec 16).toNat ≤ 256 := by decide

theorem witness_GatedBlockIsSilent :
    (256 : BitVec 16).toNat ≤ 256 ∧ State.reset.outbuf.wf ∧ State.reset.cf.switch[0] = false ∧
    State.reset.cf.switch[1] = false ∧ ∃ u, exec .ctrlUpdate State.reset = .next u ∧ u.dly.fb = 0 :=
  ⟨by decide, by decide, rfl, rfl, _, rfl, by decide +kernel⟩

theorem witness_BlockStoresOnlyItsOwnEntries :
    (256 : BitVec 16).toNat ≤ 256 ∧ p1Start.dly.buf.wf ∧ p1Start.dly.w < Config.params.cap ∧
    (∃ t, exec (.block 256) p1Start = .next t) ∧ ∀ k < (256 : BitVec 16).toNat, 119999 ≠ (p1Start.dly.w + k) % Config.params.cap := by
  refine ⟨by decide, by decide, by decide, ⟨_, rfl⟩, fun k hk => ?_⟩
  have h : (256 : BitVec 16).toNat = 256 := by decide
  rw [h] at hk
  have : p1Start.dly.w = 0 := rfl
  rw [this, cap_eq, Nat.zero_add, Nat.mod_eq_of_lt (by omega)]; omega

theorem witness_BlockIgnoresWhatTheUpdateRewrites :
    let s := p1Start
    let s' := { s with snap := ⟨true, false, false, 5, s.snap.volume⟩, lfo := ⟨1, 2, s.lfo.phase⟩ }
    (256 : BitVec 16).toNat ≤ 256 ∧ s' = { s with
      snap := { s'.snap with volume := s.snap.volume }
      lfo := { s'.lfo with phase := s.lfo.phase }
      svf := { s'.svf with s1 := s.svf.s1, s2 := s.svf.s2 }
      dly := { s.dly with tgt := s'.dly.tgt, fb := s'.dly.fb } } := ⟨by decide, rfl⟩

/-- CFG-A is legal (R149), and the current delay after reset is in range. -/
theorem witness_LegalBlocksRecordNoViolation : (256 : BitVec 16).toNat ≤ 256 ∧ p1Start.BlockReady Config.params := by
  refine ⟨by decide, ⟨by decide +kernel, by decide +kernel, by decide +kernel, by decide +kernel, by decide +kernel,
    by decide +kernel, by decide +kernel, by decide +kernel⟩, by decide +kernel⟩

theorem witness_EveryStepKeepsTheInvariant : State.reset.Inv Config.params ∧ ∃ t, step State.reset = .next t :=
  ⟨⟨Memory.wf_nil, nofun, Memory.wf_nil, nofun, by decide, by decide, rfl, fun _ _ => rfl, by decide⟩, _, rfl⟩

theorem witness_ViolationsAreNeverRemoved :
    ∃ t, step { pending 0x22000000 with viol := [.busyWrite] } = .next t ∧ t.viol = [.busyWrite, .freqRange] :=
  ⟨_, rfl, by decide +kernel⟩

/-- A configuration write, and an engine step while a power-on reset waits. -/
theorem witness_LockedConfigurationStays :
    let s := { State.reset with cfgLock := true, inputs := [wr (.lo .svfRes) 1] }
    let u := { pending 0 with cfgLock := true, inputs := [.powerOn] }
    (s.cfgLock = true ∧ ¬(s.engineMoves = false ∧ s.inputs.head? = some .powerOn) ∧ ∃ t, step s = .next t) ∧
    (u.cfgLock = true ∧ ¬(u.engineMoves = false ∧ u.inputs.head? = some .powerOn) ∧ ∃ t, step u = .next t) :=
  ⟨⟨rfl, by decide, _, rfl⟩, rfl, by decide, _, rfl⟩

/-- ENC_APPLY, and a power-on reset, each changing the snapshot. -/
theorem witness_OnlyControlWritesTheSnapshot :
    (∃ t, step (pending 0x51000001) = .next t ∧ t.snap ≠ (pending 0x51000001).snap) ∧
    (∃ t, step { State.reset with snap := ⟨true, true, true, 1, 1⟩, inputs := [.powerOn] } = .next t ∧
      t.snap ≠ ⟨true, true, true, 1, 1⟩) ∧
    (∃ t, step { pending 0x50000000 with cf := ⟨7, 0, Vector.replicate 6 0⟩ } = .next t ∧ t.snap ≠ (pending 0).snap) ∧
    (∃ t, step { pending 0x61000000 with cf := ⟨7, 0, Vector.replicate 6 0⟩ } = .next t ∧ t.snap ≠ (pending 0).snap) ∧
    (∃ t, step { pending 0x01000000 with snap := ⟨true, true, true, 1, 1⟩ } = .next t ∧ t.snap ≠ ⟨true, true, true, 1, 1⟩) :=
  ⟨⟨_, rfl, by decide +kernel⟩, ⟨_, rfl, by decide +kernel⟩, ⟨_, rfl, by decide +kernel⟩, ⟨_, rfl, by decide +kernel⟩,
    ⟨_, rfl, by decide +kernel⟩⟩

/-- The engine takes the command; and a power-on reset that the scheduler picks drops it. -/
theorem witness_PendingCommandIsEventuallyTaken :
    { pending 0 with sched := [.host, .host], inputs := [.wait] }.pend = some 0#32 ∧
    .powerOn ∉ { pending 0 with sched := [.host, .host], inputs := [.wait] }.inputs ∧
    { pending 0 with sched := [.host], inputs := [.powerOn] }.pend = some 0#32 ∧
    { pending 0 with sched := [.host], inputs := [.powerOn] }.engineMoves = false := ⟨rfl, by decide, rfl, rfl⟩

/-- Acceptance while IDLE, and a drop while a command is pending. -/
theorem witness_CommandWriteIsAcceptedOrDropped : State.reset.pend = none ∧ (pending 0).pend ≠ none := by decide

/-- No register word is at 0x070 (reserved) or 0x300 (unmapped). -/
theorem addr_ne (n : Nat) (h : n = 0x070 ∨ n = 0x300) (r : HostReg) : r.addr ≠ n := by
  have hs (i : Fin Config.nslot) : (i : Nat) < 6 := i.isLt
  have hk (k : Fin Config.nseg) : (k : Nat) < 8 := k.isLt
  rcases r with r | r | r <;> cases r <;> simp only [HostReg.addr, Reg32.addr, Reg64.addr] <;>
    first
    | omega
    | (rename_i i; have := hs i; omega)
    | (rename_i k; have := hk k; omega)

/-- COMMAND, and the reserved address 0x070. -/
theorem witness_IdleReadsShowTheRegister :
    State.reset.pend = none ∧ (0x010#13).toNat = 0x010 ∧ (∀ r : HostReg, r.addr ≠ (0x070#13).toNat) := by
  exact ⟨rfl, rfl, addr_ne 0x070 (.inl rfl)⟩

theorem witness_BusyReadsAreDraws : (pending 0).pend ≠ none := by decide

/-- A locked configuration register, a read-only register, and an unmapped address. -/
theorem witness_LockedAndReadOnlyWritesAreIgnored :
    (HostReg.hi .oscAmp).isConfig = true ∧
    { State.reset with cfgLock := true }.cfgLock = true ∧
    (HostReg.word .id).isConfig = false ∧ (HostReg.word .id).isOperand = false ∧
    HostReg.word .id ∉ [HostReg.word .ctrl, .word .status, .word .command] ∧
    (∀ r : HostReg, r.addr ≠ (0x300#13).toNat) := by
  exact ⟨rfl, rfl, rfl, rfl, by decide, addr_ne 0x300 (.inr rfl)⟩

/-- An unlocked configuration register, and an operand register while locked. -/
theorem witness_SixtyFourBitWritesInEitherOrder :
    (State.reset.pend = none ∧ (HostReg.lo (.slotMax 5)).isConfig = true ∧ State.reset.cfgLock = false ∧
      Reg64.slotMin 5 ≠ .slotMax 5) ∧
    ({ State.reset with cfgLock := true }.pend = none ∧ (HostReg.lo .arg0).isOperand = true) :=
  ⟨⟨rfl, rfl, rfl, by decide⟩, rfl, rfl⟩

theorem witness_ReservedBitsReadZero : State.reset.pend = none ∧ State.reset.cfgLock = false := ⟨rfl, rfl⟩

theorem witness_BusyWriteTakesEffectAndIsRecorded :
    ((pending 0).pend = some 0#32 ∧ (HostReg.word (.slotCurve 5)).isConfig = true ∧ (pending 0).cfgLock = false) ∧
    ({ pending 0 with cfgLock := true }.pend = some 0#32 ∧ (HostReg.word .cfEnc).isOperand = true) :=
  ⟨⟨rfl, rfl, rfl⟩, rfl, rfl⟩

theorem witness_CommandThenWaitSeesItsEffect :
    let s := { State.reset with inputs := cmdWait .nop ++ [] }
    Instr.nop.wellFormed = true ∧ s.pend = none ∧ s.sched = [] ∧ s.inputs = cmdWait .nop ++ [] ∧
    ∃ t, exec .nop { s with pend := some (encode .nop), inputs := [.wait] } = .next t := ⟨rfl, rfl, rfl, rfl, _, rfl⟩

end Sys2Proof.Tests
end

section
/-! Proofs of the family 00_scope.md: the exact values of the sums and of the product (R13 to R15), and the invariant of the
machine, kept by every step. -/

/-! ### Numbers -/

namespace Sys2Proof

/-- The shift by 32 of an exact product is the floor of the real product over 2^32 (R14). -/
theorem floor_mul_div (m n : Int) : ⌊((m : ℚ) * n) / 2 ^ 32⌋ = m * n / 2 ^ 32 := by
  exact_mod_cast Rat.floor_intCast_div_natCast (m * n) (2 ^ 32)

/-- A product with an integer that fint represents loses no fraction (R14, R15). -/
theorem fmul_fint (a : FX64) {n : Int} (h : -2 ^ 31 ≤ n) (h' : n < 2 ^ 31) : fmul a (fint n) = sat (a.toInt * n) := by
  have hn : (fint n).toInt = n * 2 ^ 32 := fint_toInt h (by omega)
  rw [fmul, hn, ← mul_assoc, Int.mul_ediv_cancel _ (by decide)]

/-- Settles O11: the three sums are `sat` of the exact sum, and −a leaves the range only at a = −2^63. -/
theorem saturatingSums : Obligations.SaturatingSums := by
  intro a b
  have hneg : (fneg a).toInt = min (max (-a.toInt) (-2 ^ 63)) (2 ^ 63 - 1) := sat_toInt _
  have hl := toInt_lower a
  have hu := toInt_upper a
  exact ⟨fadd_toInt a b, fsub_toInt a b, fun _ => by omega, fun _ => by omega⟩

/-- Settles O12: the shift is the floor of the rational product, and ONE, 0 and fint(n) leave no fraction to round. -/
theorem productRoundsDown : Obligations.ProductRoundsDown := by
  intro a b
  refine ⟨?_, fmul_one_left b, fmul_zero_left b, fun n => fmul_fint a⟩
  rw [fmul_toInt, floor_mul_div]

/-! ### Decoding -/

/-- A word that decodes gives a command whose operands the encoding admits: the size check of R71 bounds a block. -/
theorem wellFormedFor_of_decodeFor {P : Params} {w : Word} {i : Instr} (h : decodeFor P w = .ok i) :
    i.wellFormedFor P = true := by
  unfold decodeFor at h
  dsimp only at h
  split at h
  · cases h
  · rename_i op _
    split_ifs at h with _ _ _ hsize
    injection h with h
    subst h
    cases op
    case block => simpa [Opcode.toInstr, Instr.wellFormedFor] using hsize
    all_goals rfl

namespace Machine

/-! ### The invariant

Each operation that changes a field of the invariant has a lemma of its own; `State.Inv.of_watched` serves the others. -/

section
variable {P : Params} {s t : State}

/-- The fields that the invariant speaks of. -/
def State.watched (s : State) : Memory × Nat × Memory × FX64 × FX64 × FX64 × Vector Word Config.nseg :=
  (s.dly.buf, s.dly.w, s.outbuf, s.snap.volume, s.regs.outL, s.regs.outR, s.disp)

/-- An operation that leaves the watched fields alone keeps the invariant. -/
theorem State.Inv.of_watched (h : s.Inv P) (e : t.watched = s.watched) : t.Inv P := by
  simp only [State.watched, Prod.mk.injEq] at e
  obtain ⟨hbuf, hw, hob, hvol, hl, hr, hd⟩ := e
  have hread (k c : Nat) : t.readOutbuf k c = s.readOutbuf k c := by rw [State.readOutbuf, hob, State.readOutbuf]
  obtain ⟨h1, h2, h3, h4, h5, h6, h7, h8, h9⟩ := h
  constructor <;> simpa only [hbuf, hw, hob, hvol, hl, hr, hd, hread]

/-- The output registers are written together (R25). -/
theorem setOut_inv (h : s.Inv P) (y : FX64) : (s.setOut y).Inv P :=
  { h with outEqual := rfl }

/-- What a channel of OUTBUF reads after entry `k` of both channels is written (R132). -/
theorem readOutbuf_writeOutbuf (h : s.outbuf.wf) (k : Nat) (y : FX64) (j : Nat) {c : Nat} (hc : c < 2) :
    (s.writeOutbuf k y).readOutbuf j c = if j = k then y else s.readOutbuf j c := by
  have hindex : (2 * j + c = 2 * k + 1 ∨ 2 * j + c = 2 * k) ↔ j = k := by omega
  simp only [State.readOutbuf, writeOutbuf_outbuf, Config.nch, Memory.read_write (Memory.write_wf h _ _),
    Memory.read_write h, ← ite_or, hindex]

/-- An entry below BLK_MAX is written in both channels (R46, R132). -/
theorem writeOutbuf_inv (h : s.Inv P) {k : Nat} (hk : k < P.blkMax) (y : FX64) : (s.writeOutbuf k y).Inv P :=
  have hbound : Config.nch * k + 1 < Config.nch * P.blkMax := by dsimp only [Config.nch]; omega
  { h with
    outbufWf := Memory.write_wf (Memory.write_wf h.outbufWf _ _) _ _
    outbufBelow := Memory.write_below (Memory.write_below h.outbufBelow (Nat.lt_of_succ_lt hbound) y) hbound y
    channelsEqual := fun j hj => by
      rw [readOutbuf_writeOutbuf h.outbufWf k y j (by decide), readOutbuf_writeOutbuf h.outbufWf k y j (by decide),
        h.channelsEqual j hj] }

/-- The volume is clamped, and the display is set from it (R116, R117). -/
theorem volumeStep_inv (h : s.Inv P) (inc : Int) : (volumeStep P inc s).Inv P :=
  { h with volume := volumeAfter_bounds P inc s.snap.volume, displayShown := rfl }

/-- The delay line stores at the write index, which it then advances modulo CAP (R106). -/
theorem delayProcess_inv (h : s.Inv P) (x : FX64) : (delayProcess P x s).1.Inv P := by
  rw [delayProcess_eq]
  exact { h with
    dbufWf := Memory.write_wf h.dbufWf _ _
    dbufBelow := Memory.write_below h.dbufBelow h.writeIndex _
    writeIndex := Nat.mod_lt _ (cap_pos P) }

/-- A reset establishes the invariant in any state: the memories are empty, and the display shows VOL_RESET (R130). -/
theorem resetDatapath_inv (P : Params) (s : State) : (resetDatapath P s).Inv P where
  dbufWf := Memory.wf_nil
  dbufBelow := nofun
  outbufWf := Memory.wf_nil
  outbufBelow := nofun
  writeIndex := cap_pos P
  volume := P.volReset_range
  outEqual := rfl
  channelsEqual := fun _ _ => rfl
  displayShown := rfl

/-! ### Commands -/

theorem ctrlUpdate_inv (h : s.Inv P) : (ctrlUpdate P s).Inv P := by
  unfold ctrlUpdate trimVolume
  apply volumeStep_inv
  exact h.of_watched (by simp [State.watched, pushParameters_eq, deriveFlags])

theorem sampleTick_inv (h : s.Inv P) : (sampleTick P s).1.Inv P := by
  rw [sampleTick_eq]
  dsimp only
  apply delayProcess_inv
  exact h.of_watched rfl

theorem blockTick_inv (h : s.Inv P) {k : Nat} (hk : k < P.blkMax) : (blockTick P k s).1.Inv P := by
  unfold blockTick
  exact writeOutbuf_inv (sampleTick_inv h) hk _

/-- Each tick of a block of at most BLK_MAX samples writes an entry that OUTBUF has (R132). -/
theorem runTicks_inv (h : s.Inv P) {n : Nat} (hn : n ≤ P.blkMax) : (runTicks P s n).1.Inv P := by
  induction n with
  | zero => exact h
  | succ n ih => rw [runTicks_succ]; exact blockTick_inv (ih (by omega)) hn

theorem blockCmd_inv (h : s.Inv P) {n : Nat} (hn : n ≤ P.blkMax) : (blockCmd P n s).Inv P := by
  have hticks := runTicks_inv (ctrlUpdate_inv h) hn
  unfold blockCmd
  dsimp only
  split
  · exact setOut_inv hticks _
  · exact hticks

/-- Every command that the encoding admits keeps the invariant. -/
theorem execFor_inv (h : s.Inv P) {i : Instr} (hi : i.wellFormedFor P = true) : (execFor P i s).Inv P := by
  cases i with
  | nop => exact h
  | reset => exact resetDatapath_inv P s
  | pmapEval slot => exact h.of_watched (by simp [State.watched, execFor, pmapEval])
  | oscSetFreq k => exact h.of_watched (by simp [State.watched, execFor, oscSetFreq])
  | oscSetAmp k => exact h.of_watched (by simp [State.watched, execFor, oscSetAmp])
  | oscProcess k => exact h.of_watched (by simp [State.watched, execFor, oscProcessCmd])
  | svfSetFreq => exact h.of_watched rfl
  | svfSetMode m => exact h.of_watched rfl
  | svfProcess => exact h.of_watched (by simp [State.watched, execFor, svfProcessCmd])
  | dlyUpdate => exact h.of_watched (by simp [State.watched, execFor, delayUpdate_dly])
  | dlyProcess => exact (delayProcess_inv h s.arg0).of_watched (by simp [State.watched, execFor, dlyProcessCmd])
  | ctrlUpdate => exact ctrlUpdate_inv h
  | encApply n => exact volumeStep_inv h _
  | sample => 
    have hout := setOut_inv (sampleTick_inv h) (sampleTick P s).2.1
    exact hout.of_watched (by simp [State.watched, execFor, sampleCmd])
  | block n => exact blockCmd_inv h (of_decide_eq_true hi)

/-! ### The host -/

theorem hostRead_inv (h : s.Inv P) (a : Addr) : (s.hostRead P a).Inv P := by
  rw [hostRead_eq]
  exact h.of_watched rfl

/-- A register write leaves the output registers alone: the host may write only ARG0 and ARG1 of the operands (R25, R57). -/
theorem writeReg_outs (r : HostReg) (v : Word) (s : State) :
    (s.writeReg r v).regs.outL = s.regs.outL ∧ (s.writeReg r v).regs.outR = s.regs.outR := by
  have hstore : (s.noteBusyWrite.storeReg r v).regs.outL = s.regs.outL ∧
      (s.noteBusyWrite.storeReg r v).regs.outR = s.regs.outR := by
    rw [storeReg_regs, noteBusyWrite_eq]; exact ⟨rfl, rfl⟩
  unfold State.writeReg
  split_ifs
  · rw [noteBusyWrite_eq]; exact ⟨rfl, rfl⟩
  · exact hstore
  · exact hstore
  · exact ⟨rfl, rfl⟩
  · exact ⟨rfl, rfl⟩
  · unfold State.writeCommand; split <;> exact ⟨rfl, rfl⟩
  · exact ⟨rfl, rfl⟩

theorem hostWrite_outs (P : Params) (a : Addr) (v : Word) (s : State) :
    (s.hostWrite P a v).regs.outL = s.regs.outL ∧ (s.hostWrite P a v).regs.outR = s.regs.outR := by
  unfold State.hostWrite
  split
  · exact writeReg_outs _ v s
  · exact ⟨rfl, rfl⟩

theorem hostWrite_inv (h : s.Inv P) (a : Addr) (v : Word) : (s.hostWrite P a v).Inv P := by
  obtain ⟨hl, hr⟩ := hostWrite_outs P a v s
  rw [hostWrite_eq]
  exact h.of_watched (by simp only [State.watched, hl, hr])

/-- Every event of the host keeps the invariant. -/
theorem hostAct_inv (h : s.Inv P) (e : HostEvent) : (s.hostAct P e).Inv P := by
  cases e with
  | read a bytes => exact (hostRead_inv h a).of_watched rfl
  | write a bytes v => exact (hostWrite_inv h a v).of_watched rfl
  | wait =>
    have hread := hostRead_inv h State.statusAddr
    unfold State.hostAct
    dsimp only
    split
    · exact hread
    · exact hread.of_watched rfl
  | powerOn => exact (resetDatapath_inv P _).of_watched rfl

end

/-! ### The step -/

/-- Settles O46, by the four kinds of step: an idle step and a rejected word leave the watched fields alone, and the
host's events and the commands have their lemmas. -/
theorem everyStepKeepsTheInvariant : Obligations.EveryStepKeepsTheInvariant := by
  intro s t h hstep
  rcases step_cases hstep with ⟨-, -, rfl⟩ | ⟨e, -, -, -, -, rfl⟩ | ⟨w, c, -, -, -, rfl⟩ | ⟨w, i, u, -, -, hi, hu, rfl⟩
  · exact h.of_watched rfl
  · exact (hostAct_inv h e).of_watched rfl
  · exact h.of_watched rfl
  · rw [exec_eq] at hu
    injection hu with hu
    subst hu
    exact (execFor_inv h (wellFormedFor_of_decodeFor hi)).of_watched rfl

end Machine
end Sys2Proof
end

section
/-! Proofs of the family 10_state.md: the register map and what the host's writes store (R34, R35, R39 to R42, R46,
R54), what a BLOCK reads of the state (R48), the invariant at reset (R47), and what every step keeps (R29, R31, R34). -/

namespace Sys2Proof.Machine

/-! ### The register map -/

/-- A register word is one of the listed words or a half of an OUTBUF entry (R46). -/
theorem mem_lowRegs_or_outbuf (r : HostReg) :
    r ∈ lowRegs ∨ ∃ k c, r = .lo (.outbuf k c) ∨ r = .hi (.outbuf k c) := by
  rcases r with r | r | r <;> cases r
  case lo.outbuf k c => exact .inr ⟨k, c, .inl rfl⟩
  case hi.outbuf k c => exact .inr ⟨k, c, .inr rfl⟩
  all_goals exact .inl (by simp [lowRegs, List.mem_finRange])

/-- The listed words lie aligned below the unmapped range, and none shares its address with another. -/
theorem lowRegs_addr : ∀ r ∈ lowRegs,
    r.addr < 0x300 ∧ r.addr % 4 = 0 ∧ (lowRegs.find? fun q => q.addr == r.addr) = some r := by
  decide +kernel

section
variable {P : Params} {a : Addr}

/-- Below OUTBUF the map is looked up in the list of words. -/
theorem regAt_of_lt (h : a.toNat < 0x1000) : regAt P a = lowRegs.find? fun r => r.addr == a.toNat := by
  unfold regAt; rw [if_neg (by omega)]

/-- The entry and the channel of an address in OUTBUF, from its offset within the entry of one channel (R46). -/
theorem outbuf_index {n d : Nat} {k : Fin Config.outbufRoom} {c : Fin Config.nch} (hd : d < 8)
    (h : n = 16 * k + 8 * c + d) :
    n / 16 = k ∧ n % 8 = d ∧ Fin.ofNat Config.nch (n / 8) = c := by
  have hc : (c : Nat) < 2 := c.isLt
  refine ⟨by omega, by omega, Fin.ext ?_⟩
  change n / 8 % 2 = c
  omega

/-- The low word of an OUTBUF entry that a block can write (R46, R50). -/
theorem regAt_outbuf_lo {k : Fin Config.outbufRoom} {c : Fin Config.nch} (hk : k < P.blkMax)
    (h : a.toNat = 0x1000 + 16 * k + 8 * c) : regAt P a = some (.lo (.outbuf k c)) := by
  obtain ⟨hk16, hd8, hc8⟩ := outbuf_index (n := a.toNat - 0x1000) (k := k) (c := c) (d := 0) (by decide) (by omega)
  simp only [regAt, if_pos (show 0x1000 ≤ a.toNat by omega), hk16, hd8, hc8, Fin.ofNat_val_eq_self,
    Nat.not_le.2 hk, if_true, if_false]

/-- The high word of an OUTBUF entry that a block can write (R46, R50, R54). -/
theorem regAt_outbuf_hi {k : Fin Config.outbufRoom} {c : Fin Config.nch} (hk : k < P.blkMax)
    (h : a.toNat = 0x1000 + 16 * k + 8 * c + 4) : regAt P a = some (.hi (.outbuf k c)) := by
  obtain ⟨hk16, hd8, hc8⟩ := outbuf_index (n := a.toNat - 0x1000) (k := k) (c := c) (d := 4) (by decide) (by omega)
  simp only [regAt, if_pos (show 0x1000 ≤ a.toNat by omega), hk16, hd8, hc8, Fin.ofNat_val_eq_self,
    Nat.not_le.2 hk, OfNat.ofNat_ne_zero, if_true, if_false]

/-- The word the map gives at an address has that address. -/
theorem addr_of_regAt {r : HostReg} (h : regAt P a = some r) : r.addr = a.toNat := by
  by_cases ha : a.toNat < 0x1000
  · rw [regAt_of_lt ha] at h
    simpa using List.find?_some h
  · have hlt : a.toNat < 2 ^ 13 := a.isLt
    simp only [regAt, if_pos (show 0x1000 ≤ a.toNat by omega)] at h
    split_ifs at h
    · rw [← Option.some.inj h]
      change 0x1000 + 16 * ((a.toNat - 0x1000) / 16 % 256) + 8 * ((a.toNat - 0x1000) / 8 % 2) = a.toNat
      omega
    · rw [← Option.some.inj h]
      change 0x1000 + 16 * ((a.toNat - 0x1000) / 16 % 256) + 8 * ((a.toNat - 0x1000) / 8 % 2) + 4 = a.toNat
      omega

end

/-- Settles O52: the listed words one by one, and the halves of the OUTBUF entries by their arithmetic. -/
theorem registerMapIsUnambiguous : Obligations.RegisterMapIsUnambiguous := by
  intro r
  have toNat_addr (h : r.addr < 0x2000) : (BitVec.ofNat 13 r.addr).toNat = r.addr := Nat.mod_eq_of_lt h
  rcases mem_lowRegs_or_outbuf r with hr | ⟨k, c, hr⟩
  · obtain ⟨hlt, halign, hfind⟩ := lowRegs_addr r hr
    have ha := toNat_addr (by omega)
    refine ⟨by omega, halign, ?_⟩
    rw [regAt_of_lt (by omega), ha, hfind]
  · have hk : (k : Nat) < 256 := k.isLt
    have hc : (c : Nat) < 2 := c.isLt
    rcases hr with rfl | rfl
    · have hadd : (HostReg.lo (.outbuf k c)).addr = 0x1000 + 16 * k + 8 * c := rfl
      exact ⟨by omega, by omega, regAt_outbuf_lo hk (toNat_addr (by omega))⟩
    · have hadd : (HostReg.hi (.outbuf k c)).addr = 0x1000 + 16 * k + 8 * c + 4 := rfl
      exact ⟨by omega, by omega, regAt_outbuf_hi hk (toNat_addr (by omega))⟩

/-! ### What a register write does -/

section
variable (r : HostReg) (v : Word) (s : State)

/-- A write at a register word's address is a write to that word. -/
theorem hostWrite_addr : s.hostWrite Config.params (BitVec.ofNat 13 r.addr) v = s.writeReg r v := by
  unfold State.hostWrite
  rw [(registerMapIsUnambiguous r).2.2]

/-- A write to a register word is refused by the lock, stored, or changes at most the pending word, the lock and the
error registers, and it never clears the lock (R34, R35, R57, R122). -/
theorem writeReg_cases :
    (r.isConfig = true ∧ s.cfgLock = true ∧ s.writeReg r v = s.noteBusyWrite.setLockErr) ∨
    ((r.isConfig = true → s.cfgLock = false) ∧ s.writeReg r v = s.noteBusyWrite.storeReg r v) ∨
    ∃ p l e, s.writeReg r v = { s with pend := p, cfgLock := s.cfgLock || l, err := e } := by
  unfold State.writeReg
  split_ifs with hc hl
  · exact .inl ⟨hc, hl, rfl⟩
  · exact .inr (.inl ⟨fun _ => by simpa using hl, rfl⟩)
  · exact .inr (.inl ⟨fun h => absurd h hc, rfl⟩)
  · exact .inr (.inr ⟨s.pend, v[0], s.err, rfl⟩)
  · exact .inr (.inr ⟨s.pend, false, (s.writeStatus v).err, by rw [Bool.or_false]; rfl⟩)
  · refine .inr (.inr ⟨(s.writeCommand v).pend, false, (s.writeCommand v).err, ?_⟩)
    rw [Bool.or_false]
    unfold State.writeCommand
    split <;> rfl
  · exact .inr (.inr ⟨s.pend, false, s.err, by rw [Bool.or_false]⟩)

variable {r s}

theorem writeReg_locked (hr : r.isConfig = true) (hl : s.cfgLock = true) :
    s.writeReg r v = s.noteBusyWrite.setLockErr := by
  simp [State.writeReg, hr, hl]

theorem writeReg_unlocked (hr : r.isConfig = true) (hl : s.cfgLock = false) :
    s.writeReg r v = s.noteBusyWrite.storeReg r v := by
  simp [State.writeReg, hr, hl]

/-- The lock does not guard the operand and control-frame registers (R34). -/
theorem writeReg_operand (hr : r.isConfig = false) (ho : r.isOperand = true) :
    s.writeReg r v = s.noteBusyWrite.storeReg r v := by
  simp [State.writeReg, hr, ho]

theorem writeReg_readOnly (hr : r.isConfig = false) (ho : r.isOperand = false)
    (hn : r ∉ [HostReg.word .ctrl, .word .status, .word .command]) : s.writeReg r v = s := by
  simp only [List.mem_cons, List.not_mem_nil, or_false, not_or] at hn
  simp [State.writeReg, hr, ho, hn]

/-- The record of a write while a command is pending (R59). -/
theorem noteBusyWrite_eq_pend (s : State) :
    s.noteBusyWrite = { s with viol := s.viol ++ if s.pend = none then [] else [.busyWrite] } := by
  rw [noteBusyWrite_eq, State.busy]
  cases s.pend <;> rfl

theorem noteBusyWrite_idle (h : s.pend = none) : s.noteBusyWrite = s := by
  rw [noteBusyWrite_eq_pend, if_pos h, List.append_nil]

end

/-- Settles O56: each clause is one branch of the write to the word that the map gives at the address. -/
theorem lockedAndReadOnlyWritesAreIgnored : Obligations.LockedAndReadOnlyWritesAreIgnored := by
  intro s r a v
  refine ⟨fun hr hl => ?_, hostWrite_addr (.word .ctrl) v s, fun hr ho hn => ?_, fun ha => ?_⟩
  · rw [hostWrite_addr, writeReg_locked v hr hl, noteBusyWrite_eq_pend]; rfl
  · rw [hostWrite_addr, writeReg_readOnly v hr ho hn]
  · have hnone : regAt Config.params a = none :=
      Option.eq_none_iff_forall_ne_some.2 fun q hq => ha q (addr_of_regAt hq)
    unfold State.hostWrite
    rw [hnone]

/-- The bits of five flags packed as STATUS packs them (R35). -/
theorem statusBits_of_flags : ∀ b₀ b₁ b₂ b₃ b₄ : Bool,
    let w := bitWord b₀ ||| bitWord b₁ <<< 1 ||| bitWord b₂ <<< 2 ||| bitWord b₃ <<< 3 ||| bitWord b₄ <<< 4
    w[0] = b₀ ∧ w[1] = b₁ ∧ w[2] = b₂ ∧ w[3] = b₃ ∧ w[4] = b₄ ∧ w.toNat < 2 ^ 5 := by
  decide

/-- Settles O55: the word is packed from its five flags, and the map gives STATUS at 0x00C. -/
theorem statusBits : Obligations.StatusBits := by
  intro s v
  obtain ⟨h0, h1, h2, h3, h4, hlt⟩ := statusBits_of_flags s.busy s.err.cmdErr s.err.ovr s.err.lockErr s.ack
  exact ⟨h0, h1, h2, h3, h4, hlt, hostWrite_addr (.word .status) v s⟩

/-- An idle write to a control-frame register stores its word (R39 to R41). -/
theorem hostWrite_controlFrame {q : Reg32} (ho : (HostReg.word q).isOperand = true)
    (hr : (HostReg.word q).isConfig = false) {s : State} (h : s.pend = none) (v : Word) :
    s.hostWrite Config.params (BitVec.ofNat 13 q.addr) v = s.store32 q v := by
  have := hostWrite_addr (.word q) v s
  rwa [writeReg_operand v hr ho, noteBusyWrite_idle h] at this

/-- An idle write to an unlocked CURVE register stores its word (R42). -/
theorem hostWrite_curve (i : Fin Config.nslot) {s : State} (h : s.pend = none) (hl : s.cfgLock = false) (v : Word) :
    s.hostWrite Config.params (BitVec.ofNat 13 (Reg32.slotCurve i).addr) v = s.store32 (.slotCurve i) v := by
  have := hostWrite_addr (.word (.slotCurve i)) v s
  rwa [writeReg_unlocked v rfl hl, noteBusyWrite_idle h] at this

/-- A field of a word, read back with zeros above it, is the word modulo the field's size. -/
theorem zeroExtend_lowBits_toNat (v : Word) {n : Nat} (hn : n ≤ 32) :
    ((v.extractLsb' 0 n).zeroExtend 32).toNat = v.toNat % 2 ^ n := by
  have hp : 2 ^ n ≤ 2 ^ 32 := Nat.pow_le_pow_right (by decide) hn
  have hlt : v.toNat % 2 ^ n < 2 ^ n := Nat.mod_lt _ (by positivity)
  simp only [BitVec.truncate_eq_setWidth, BitVec.toNat_setWidth, BitVec.extractLsb'_toNat, Nat.shiftRight_zero]
  exact Nat.mod_eq_of_lt (by omega)

/-- A CURVE register reads back bit 0 of the word written, and 0 above it (R42). -/
theorem curveWord_toNat (v : Word) : (bitWord (curveBit (curveOfBit v[0]))).toNat = v.toNat % 2 := by
  have hv : v[0] = decide (v.toNat % 2 = 1) := by
    rw [← BitVec.getLsbD_eq_getElem, BitVec.getLsbD, Nat.testBit_zero]
  have hb (b : Bool) : (bitWord (curveBit (curveOfBit b))).toNat = b.toNat := by cases b <;> rfl
  rw [hb, hv]
  rcases Nat.mod_two_eq_zero_or_one v.toNat with h | h <;> rw [h] <;> rfl

/-- Settles O58: an idle write stores the field, and the field reads back with zeros above it. -/
theorem reservedBitsReadZero : Obligations.ReservedBitsReadZero := by
  intro s i v h
  dsimp only
  have hsw : s.hostWrite Config.params 0x018#13 v = _ := hostWrite_controlFrame (q := .cfSwitch) rfl rfl h v
  have henc : s.hostWrite Config.params 0x01C#13 v = _ := hostWrite_controlFrame (q := .cfEnc) rfl rfl h v
  have hknob : s.hostWrite Config.params (BitVec.ofNat 13 (0x020 + 4 * i.val)) v = _ :=
    hostWrite_controlFrame (q := .cfKnob i) rfl rfl h v
  rw [hsw, henc, hknob]
  have hfield (n : Nat) (hn : n ≤ 32) := zeroExtend_lowBits_toNat v hn
  refine ⟨rfl, rfl, rfl, hfield 3 (by decide), hfield 16 (by decide), ?_, fun hl => ?_⟩
  · have hread : (s.store32 (.cfKnob i) v).readReg (.word (.cfKnob i)) = (v.extractLsb' 0 16).zeroExtend 32 := by
      simp [State.readReg, State.read32, State.store32]
    rw [hread, hfield 16 (by decide)]
  · have haddr : 0x110 + 0x20 * i.val = (Reg32.slotCurve i).addr := by simp only [Reg32.addr]; omega
    have hread : (s.store32 (.slotCurve i) v).readReg (.word (.slotCurve i)) =
        bitWord (curveBit (curveOfBit v[0])) := by
      simp [State.readReg, State.read32, State.store32, State.setSlot, State.slot]
    rw [haddr, hostWrite_curve i h hl v, hread]
    exact ⟨rfl, curveWord_toNat v⟩

/-! ### BLOCK -/

/-- The control update writes the snapshot but for the volume, the LFO but for its phase, the filter but for its
integrators, and the target and gain of the delay, without reading what they held (R48, R118). -/
theorem ctrlUpdate_rewrites (P : Params) (s : State) (snap : Snapshot) (lfo : Oscillator) (svf : Filter)
    (tgt fb : FX64) :
    ctrlUpdate P { s with
      snap := { snap with volume := s.snap.volume }
      lfo := { lfo with phase := s.lfo.phase }
      svf := { svf with s1 := s.svf.s1, s2 := s.svf.s2 }
      dly := { s.dly with tgt := tgt, fb := fb } } = ctrlUpdate P s := by
  rw [ctrlUpdate_eq, ctrlUpdate_eq P s]
  rfl

/-- Settles O43: a BLOCK reads the state only through its control update. -/
theorem blockIgnoresWhatTheUpdateRewrites : Obligations.BlockIgnoresWhatTheUpdateRewrites := by
  intro n s s' _ hs
  have hupdate := ctrlUpdate_rewrites Config.params s s'.snap s'.lfo s'.svf s'.dly.tgt s'.dly.fb
  rw [← hs] at hupdate
  rw [exec_eq, exec_eq]
  simp only [execFor, blockCmd, hupdate]

/-! ### Reset -/

/-- Settles O45: power-on reset ends with ResetDatapath, which establishes the invariant in any state. -/
theorem resetStateMeetsTheInvariant : Obligations.ResetStateMeetsTheInvariant := by
  unfold Obligations.ResetStateMeetsTheInvariant
  rw [reset_eq]
  exact resetDatapath_inv _ _

/-! ### What every step keeps -/

/-- Every step has one of four effects: it touches at most the pending word, the error registers and the model's own
fields; it is a host write; it is a power-on reset taken by the host; or it is a command's effect (R23, R123). -/
theorem step_effects {s t : State} (h : step s = .next t) :
    (∃ p e l c rs d, t = { s with pend := p, err := e, inputs := l, sched := c, replies := rs, draws := d }) ∨
    (∃ a v, t = (s.hostWrite Config.params a v).nextInput.usePick) ∨
    (s.engineMoves = false ∧ s.inputs.head? = some .powerOn ∧ t = (powerOnReset Config.params s).nextInput.usePick) ∨
    (∃ w i, s.engineMoves = true ∧ s.pend = some w ∧ decode w = .ok i ∧ t = (execFor Config.params i s).retire) := by
  rcases step_cases h with ⟨-, -, rfl⟩ | ⟨e, rest, hin, -, hm, rfl⟩ | ⟨w, c, -, -, -, rfl⟩ |
    ⟨w, i, u, hp, hm, hi, hu, rfl⟩
  · exact .inl ⟨_, _, _, _, _, _, rfl⟩
  · cases e with
    | read a bytes =>
      simp only [State.hostAct]
      rw [hostRead_eq]
      exact .inl ⟨_, _, _, _, _, _, rfl⟩
    | write a bytes v => exact .inr (.inl ⟨a, v, rfl⟩)
    | wait =>
      simp only [State.hostAct]
      rw [hostRead_eq]
      split
      · exact .inl ⟨_, _, _, _, _, _, rfl⟩
      · exact .inl ⟨_, _, _, _, _, _, rfl⟩
    | powerOn => exact .inr (.inr (.inl ⟨hm, by rw [hin]; rfl, rfl⟩))
  · exact .inl ⟨_, _, _, _, _, _, rfl⟩
  · rw [exec_eq] at hu
    injection hu with hu
    exact .inr (.inr (.inr ⟨w, i, hm, hp, hi, by rw [hu]⟩))

/-! ### The violation record -/

section
variable (P : Params) (s : State)

theorem require_viol_prefix (ok : Bool) (v : Violation) : s.viol <+: (s.require ok v).viol := by
  rw [require_viol]; exact List.prefix_append _ _

theorem pmap_viol_prefix (K : Kernels) (i : Fin Config.nslot) (raw : FX64) : s.viol <+: (pmap K i raw s).1.viol := by
  rw [pmap_eq]
  exact (require_viol_prefix s _ _).trans (List.prefix_append _ _)

theorem oscProcess_viol_prefix (k : OscId) : s.viol <+: (oscProcess P k s).1.viol := by
  rw [oscProcess_viol]; exact List.prefix_append _ _

theorem filterProcess_viol_prefix (x : FX64) : s.viol <+: (filterProcess P x s).1.viol := by
  rw [filterProcess_viol]; exact List.prefix_append _ _

theorem delayUpdate_viol_prefix (target g : FX64) : s.viol <+: (delayUpdate P target g s).viol := by
  rw [delayUpdate_viol, List.append_assoc]; exact List.prefix_append _ _

theorem delayProcess_viol_prefix (x : FX64) : s.viol <+: (delayProcess P x s).1.viol := by
  rw [delayProcess_viol, List.append_assoc]; exact List.prefix_append _ _

theorem ctrlUpdate_viol_prefix : s.viol <+: (ctrlUpdate P s).viol := by
  rw [ctrlUpdate_eq]
  simp only [List.append_assoc, List.prefix_append]

theorem oscSample_viol_prefix (l : FX64) : s.viol <+: (oscSample P l s).1.viol :=
  oscProcess_viol_prefix P (oscSetFreq .osc (fadd s.snap.baseFreq l) s) .osc

theorem sampleTick_viol_prefix : s.viol <+: (sampleTick P s).1.viol := by
  have hlfo : s.viol <+: (lfoSample P s).1.viol := oscProcess_viol_prefix P s .lfo
  have hosc := oscSample_viol_prefix P (lfoSample P s).1 (lfoSample P s).2
  simp only [sampleTick]
  exact (hlfo.trans hosc).trans (delayProcess_viol_prefix P _ _)

theorem runTicks_viol_prefix (n : Nat) : s.viol <+: (runTicks P s n).1.viol := by
  induction n with
  | zero => exact List.prefix_rfl
  | succ n ih =>
    simp only [runTicks_succ, blockTick, writeOutbuf_viol]
    exact ih.trans (sampleTick_viol_prefix P _)

theorem blockCmd_viol_prefix (n : Nat) : s.viol <+: (blockCmd P n s).viol := by
  have hticks := (ctrlUpdate_viol_prefix P s).trans (runTicks_viol_prefix P _ n)
  unfold blockCmd
  dsimp only
  split
  · exact hticks
  · exact hticks

/-- Every command only appends to the violation record (R135). -/
theorem execFor_viol_prefix (i : Instr) : s.viol <+: (execFor P i s).viol := by
  cases i <;> simp only [execFor]
  case pmapEval slot => simpa [pmapEval] using pmap_viol_prefix s P.kernels slot s.arg0
  case oscSetFreq k => simp [oscSetFreq]
  case oscSetAmp k => simp [oscSetAmp]
  case oscProcess k => simpa [oscProcessCmd] using oscProcess_viol_prefix P s k
  case svfProcess => simpa [svfProcessCmd] using filterProcess_viol_prefix P s s.arg0
  case dlyUpdate => exact delayUpdate_viol_prefix P s s.arg0 s.arg1
  case dlyProcess => simpa [dlyProcessCmd] using delayProcess_viol_prefix P s s.arg0
  case ctrlUpdate => exact ctrlUpdate_viol_prefix P s
  case sample => simpa [sampleCmd] using sampleTick_viol_prefix P s
  case block n => exact blockCmd_viol_prefix P s _
  all_goals exact List.prefix_rfl

/-- A register write appends at most V_BUSY_WRITE (R59). -/
theorem writeReg_viol_prefix (r : HostReg) (v : Word) : s.viol <+: (s.writeReg r v).viol := by
  have hnote : s.viol <+: s.noteBusyWrite.viol := require_viol_prefix s _ _
  rcases writeReg_cases r v s with ⟨-, -, h⟩ | ⟨-, h⟩ | ⟨p, l, e, h⟩
  · rw [h]; exact hnote
  · rw [h, storeReg_eq]; exact hnote
  · rw [h]

theorem hostWrite_viol_prefix (a : Addr) (v : Word) : s.viol <+: (s.hostWrite P a v).viol := by
  unfold State.hostWrite
  split
  · exact writeReg_viol_prefix s _ v
  · exact List.prefix_rfl

end

/-- Settles O47, by the four effects of a step: a host write and a command append, and no other effect touches the
record. -/
theorem violationsAreNeverRemoved : Obligations.ViolationsAreNeverRemoved := by
  intro s t h
  have hprefix : s.viol <+: t.viol := by
    rcases step_effects h with ⟨p, e, l, c, rs, d, rfl⟩ | ⟨a, v, rfl⟩ | ⟨-, -, rfl⟩ | ⟨w, i, -, -, -, rfl⟩
    · exact List.prefix_rfl
    · exact hostWrite_viol_prefix _ s a v
    · exact List.prefix_rfl
    · exact execFor_viol_prefix _ s i
  obtain ⟨new, hnew⟩ := hprefix
  exact ⟨new, hnew.symm⟩

/-! ### The lock -/

section
variable (P : Params) (s : State)

theorem blockCmd_config (n : Nat) : (blockCmd P n s).cfgLock = s.cfgLock ∧ (blockCmd P n s).cfg = s.cfg := by
  unfold blockCmd
  dsimp only
  split <;> simp

/-- No command changes the lock or the configuration, RESET included (R130). -/
theorem execFor_config (i : Instr) : (execFor P i s).cfgLock = s.cfgLock ∧ (execFor P i s).cfg = s.cfg := by
  cases i with
  | nop => exact ⟨rfl, rfl⟩
  | reset => exact ⟨rfl, rfl⟩
  | pmapEval slot => simp [execFor, pmapEval]
  | oscSetFreq k => simp [execFor, oscSetFreq]
  | oscSetAmp k => simp [execFor, oscSetAmp]
  | oscProcess k => simp [execFor, oscProcessCmd]
  | svfSetFreq => exact ⟨rfl, rfl⟩
  | svfSetMode m => exact ⟨rfl, rfl⟩
  | svfProcess => simp [execFor, svfProcessCmd]
  | dlyUpdate => simp [execFor]
  | dlyProcess => simp [execFor, dlyProcessCmd]
  | ctrlUpdate => simp [execFor]
  | encApply n => exact ⟨rfl, rfl⟩
  | sample => simp [execFor, sampleCmd]
  | block n => exact blockCmd_config P s _

/-- Only a configuration register holds part of the configuration (R42, R43). -/
theorem storeReg_cfg {r : HostReg} (hr : r.isConfig = false) (v : Word) : (s.storeReg r v).cfg = s.cfg := by
  rcases r with q | q | q <;> cases q <;> simp_all [HostReg.isConfig, State.storeReg, State.store32, State.store64]

variable {s}

/-- A register write while the lock is set leaves the lock and the configuration (R34). -/
theorem writeReg_config_of_locked (hl : s.cfgLock = true) (r : HostReg) (v : Word) :
    (s.writeReg r v).cfgLock = true ∧ (s.writeReg r v).cfg = s.cfg := by
  rcases writeReg_cases r v s with ⟨-, -, h⟩ | ⟨hr, h⟩ | ⟨p, l, e, h⟩
  · rw [h, noteBusyWrite_eq]; exact ⟨hl, rfl⟩
  · have hr : r.isConfig = false := by simpa [hl] using hr
    rw [h, storeReg_cfg _ hr, storeReg_eq, noteBusyWrite_eq]; exact ⟨hl, rfl⟩
  · rw [h, hl]; exact ⟨rfl, rfl⟩

theorem hostWrite_config_of_locked (hl : s.cfgLock = true) (a : Addr) (v : Word) :
    (s.hostWrite P a v).cfgLock = true ∧ (s.hostWrite P a v).cfg = s.cfg := by
  unfold State.hostWrite
  split
  · exact writeReg_config_of_locked hl _ v
  · exact ⟨hl, rfl⟩

end

/-- Settles O48, by the four effects of a step: a host write respects the lock, no command touches it, and the
hypothesis excludes the power-on reset. -/
theorem lockedConfigurationStays : Obligations.LockedConfigurationStays := by
  intro s t hl hreset h
  rcases step_effects h with ⟨p, e, l, c, rs, d, rfl⟩ | ⟨a, v, rfl⟩ | ⟨hm, hp, -⟩ | ⟨w, i, -, -, -, rfl⟩
  · exact ⟨hl, rfl⟩
  · exact hostWrite_config_of_locked _ hl a v
  · exact absurd ⟨hm, hp⟩ hreset
  · obtain ⟨hlock, hcfg⟩ := execFor_config Config.params s i
    exact ⟨hlock.trans hl, hcfg⟩

/-! ### The snapshot -/

/-- A command keeps the snapshot, or is one of the four that write it; ENC_APPLY writes only the volume (R29). -/
theorem execFor_snap (P : Params) (i : Instr) (s : State) :
    (execFor P i s).snap = s.snap ∨ i = .ctrlUpdate ∨ i = .reset ∨ (∃ n, i = .block n) ∨
      ((∃ n, i = .encApply n) ∧ (execFor P i s).snap = { s.snap with volume := (execFor P i s).snap.volume }) := by
  cases i with
  | nop => exact .inl rfl
  | reset => exact .inr (.inr (.inl rfl))
  | pmapEval slot => exact .inl (by simp [execFor, pmapEval])
  | oscSetFreq k => exact .inl (by simp [execFor, oscSetFreq])
  | oscSetAmp k => exact .inl (by simp [execFor, oscSetAmp])
  | oscProcess k => exact .inl (by simp [execFor, oscProcessCmd])
  | svfSetFreq => exact .inl rfl
  | svfSetMode m => exact .inl rfl
  | svfProcess => exact .inl (by simp [execFor, svfProcessCmd])
  | dlyUpdate => exact .inl (by simp [execFor])
  | dlyProcess => exact .inl (by simp [execFor, dlyProcessCmd])
  | ctrlUpdate => exact .inr (.inl rfl)
  | encApply n => exact .inr (.inr (.inr (.inr ⟨⟨n, rfl⟩, rfl⟩)))
  | sample => exact .inl (by simp [execFor, sampleCmd])
  | block n => exact .inr (.inr (.inr (.inl ⟨n, rfl⟩)))

/-- Settles O49, by the four effects of a step: a host write leaves the snapshot, and only four commands write it. -/
theorem onlyControlWritesTheSnapshot : Obligations.OnlyControlWritesTheSnapshot := by
  intro s t h hne
  rcases step_effects h with ⟨p, e, l, c, rs, d, rfl⟩ | ⟨a, v, rfl⟩ | ⟨hm, hp, -⟩ | ⟨w, i, hm, hp, hi, rfl⟩
  · exact absurd rfl hne
  · exact absurd (congrArg State.snap (hostWrite_eq Config.params a v s)) hne
  · exact .inl ⟨hm, hp⟩
  · exact .inr ⟨w, i, hm, hp, hi, (execFor_snap Config.params i s).resolve_left hne⟩

end Sys2Proof.Machine
end

section
/-! Proofs of the family 20_memory.md: the delay buffer's one store a tick (R52), what the host's accesses read and store
(R54 to R59), and a command seen from the host (R61, R62). -/

namespace Sys2Proof

/-! ### Halves of a 64-bit value (R54) -/

section
variable (v : FX64) (h l : Word)

theorem hiHalf_append_loHalf : hiHalf v ++ loHalf v = v :=
  (BitVec.extractLsb'_append_extractLsb'_eq_extractLsb' rfl).trans BitVec.extractLsb'_eq_self

@[simp] theorem hiHalf_append : hiHalf (h ++ l) = h := BitVec.extractLsb'_append_eq_left

@[simp] theorem loHalf_append : loHalf (h ++ l) = l := BitVec.extractLsb'_append_eq_right

/-- Replacing both halves, the low one first, gives the new value. -/
theorem setHi_setLo (u : FX64) : setHi (setLo u (loHalf v)) (hiHalf v) = v := by
  rw [setHi, setLo, loHalf_append, hiHalf_append_loHalf]

/-- Replacing both halves, the high one first, gives the new value. -/
theorem setLo_setHi (u : FX64) : setLo (setHi u (hiHalf v)) (loHalf v) = v := by
  rw [setHi, setLo, hiHalf_append, hiHalf_append_loHalf]

end

/-! ### Decoding -/

/-- A word that passes the checks of R71 decodes to the command of its opcode. -/
theorem decodeFor_pack {P : Params} {op : Opcode} {sel : BitVec 4} {imm : BitVec 16} (hsel : sel.toNat ≤ op.maxSel)
    (hmode : op = .svfSetMode → imm.extractLsb' 1 15 = 0) (hsize : op = .block → imm.toNat ≤ P.blkMax)
    (himm : op.usesImm = false → imm = 0) :
    decodeFor P (Fields.pack ⟨op.byte, sel, 0, imm⟩) = .ok (op.toInstr sel imm) := by
  unfold decodeFor
  simp only [fieldsOf_pack, ofByte_byte, ne_eq, not_true_eq_false, if_false]
  rw [if_neg (Nat.not_lt.2 hsel), if_neg fun h => h.2 (hmode h.1), if_neg fun h => Nat.not_lt.2 (hsize h.1) h.2,
    if_neg fun h => h.2 (himm h.1)]

/-- A slot number passes the check of R71 and names its slot. -/
theorem slotOfSel_ofNat : ∀ slot : Fin Config.nslot,
    (BitVec.ofNat 4 slot.val).toNat ≤ Opcode.pmapEval.maxSel ∧ slotOfSel (BitVec.ofNat 4 slot.val) = slot := by
  decide

/-- Decoding an encoded well-formed command gives it back (R70, R71). -/
theorem decode_encode {i : Instr} (hi : i.wellFormed = true) : decode (encode i) = .ok i := by
  cases i
  case pmapEval slot =>
    obtain ⟨hsel, hslot⟩ := slotOfSel_ofNat slot
    have h := decodeFor_pack (P := Config.params) (op := .pmapEval) (imm := 0) hsel nofun nofun fun _ => rfl
    rwa [Opcode.toInstr, hslot] at h
  case oscSetFreq k => cases k <;> rfl
  case oscSetAmp k => cases k <;> rfl
  case oscProcess k => cases k <;> rfl
  case svfSetMode m => cases m <;> rfl
  case encApply n => exact decodeFor_pack (op := .encApply) (by decide) nofun nofun nofun
  case block n => exact decodeFor_pack (op := .block) (by decide) nofun (fun _ => of_decide_eq_true hi) nofun
  all_goals rfl

namespace Machine

/-! ### One store a tick -/

section
variable {P : Params} {s : State}

/-- DelayProcess stores at the write index only (R106). -/
theorem delayProcess_read_of_ne (h : s.dly.buf.wf) (x : FX64) {j : Nat} (hj : j ≠ s.dly.w) :
    (delayProcess P x s).1.dly.buf.read j = s.dly.buf.read j := by
  rw [delayProcess_dly]
  exact (Memory.read_write h _ _ j).trans (if_neg hj)

/-- A sample tick stores in the buffer only through its DelayProcess (R126). -/
theorem sampleTick_read_of_ne (h : s.dly.buf.wf) {j : Nat} (hj : j ≠ s.dly.w) :
    (sampleTick P s).1.dly.buf.read j = s.dly.buf.read j := by
  have hdly : (oscSample P (lfoSample P s).2 (lfoSample P s).1).1.dly = s.dly := by
    simp [oscSample, lfoSample, oscSetFreq]
  rw [← hdly] at h hj ⊢
  simp only [sampleTick]
  exact delayProcess_read_of_ne h _ hj

end

/-- Settles O26: both commands store through one DelayProcess. -/
theorem oneTickStoresOneEntry : Obligations.OneTickStoresOneEntry := by
  intro i s t hi hwf hexec j hj
  rw [exec_eq] at hexec
  injection hexec with ht
  rw [← ht]
  rcases hi with rfl | rfl
  · simpa [execFor, dlyProcessCmd] using delayProcess_read_of_ne hwf s.arg0 hj
  · simpa [execFor, sampleCmd] using sampleTick_read_of_ne hwf hj

/-! ### Accesses outside the interface -/

/-- A host with no step leaves an idle machine stuck, and leaves a pending command to the engine (R55, R123). -/
theorem step_of_illegal {s : State} {e : HostEvent} {rest : List HostEvent} (hin : s.inputs = e :: rest)
    (he : e.legal = false) :
    (s.pend = none → step s = .fault .hostStuck) ∧ (∀ w, s.pend = some w → step s = engineStep w s) := by
  refine ⟨fun hp => ?_, fun w hp => ?_⟩
  · simp [step, hostStep, hp, hin, he]
  · have hm : s.engineMoves = true := by simp [State.engineMoves, State.busy, State.hostEnabled, hp, hin, he]
    simp [step, hp, hm]

/-- Settles O9: neither access is legal, so the host has no step. -/
theorem accessOutsideTheInterfaceStopsTheHost : Obligations.AccessOutsideTheInterfaceStopsTheHost := by
  intro s a n v rest h hin
  have hillegal : (n == 4 && a.toNat % 4 == 0) = false := by
    rw [Bool.and_eq_false_iff, beq_eq_false_iff_ne, beq_eq_false_iff_ne]; exact h
  rcases hin with hin | hin
  · exact step_of_illegal hin hillegal
  · exact step_of_illegal hin hillegal

/-! ### What the host reads -/

/-- No register word stands in the unmapped range (R50). -/
theorem isUnmapped_addr (r : HostReg) : isUnmapped (BitVec.ofNat 13 r.addr) = false := by
  have ha : (BitVec.ofNat 13 r.addr).toNat = r.addr := Nat.mod_eq_of_lt (registerMapIsUnambiguous r).1
  have hr : r.addr < 0x300 ∨ 0x1000 ≤ r.addr := by
    rcases mem_lowRegs_or_outbuf r with hr | ⟨k, c, rfl | rfl⟩
    · exact .inl (lowRegs_addr r hr).1
    · exact .inr (by simp only [HostReg.addr, Reg64.addr]; omega)
    · exact .inr (by simp only [HostReg.addr, Reg64.addr]; omega)
  simp only [isUnmapped, ha, Bool.and_eq_false_iff, decide_eq_false_iff_not]
  omega

/-- A read at a register word's address draws while a command is pending, but for four registers, and else gives the
word (R57, R58). -/
theorem hostRead_addr (r : HostReg) (s : State) :
    s.hostRead Config.params (BitVec.ofNat 13 r.addr) =
      if s.busy && !r.readableBusy then
        { s.reply (BitVec.ofNat 13 r.addr) (Config.drawWord s.draws) with draws := s.draws + 1 }
      else s.reply (BitVec.ofNat 13 r.addr) (s.readReg r) := by
  obtain ⟨-, -, hmap⟩ := registerMapIsUnambiguous r
  simp [State.hostRead, State.readsDraw, State.mappedWord, hmap, isUnmapped_addr]

/-- While no command is pending a read gives what the map shows at its address (R57). -/
theorem hostRead_idle {s : State} (h : s.pend = none) (P : Params) (a : Addr) :
    s.hostRead P a = s.reply a (s.mappedWord P a) := by
  simp [State.hostRead, State.readsDraw, State.busy, h]

theorem mappedWord_addr (r : HostReg) (s : State) :
    s.mappedWord Config.params (BitVec.ofNat 13 r.addr) = s.readReg r := by
  unfold State.mappedWord
  rw [(registerMapIsUnambiguous r).2.2]

/-- COMMAND, and every address that is no register's, reads 0 (R57). -/
theorem mappedWord_eq_zero {a : Addr} (h : a.toNat = 0x010 ∨ ∀ r : HostReg, r.addr ≠ a.toNat) (s : State) :
    s.mappedWord Config.params a = 0 := by
  rcases h with h | h
  · have ha : a = BitVec.ofNat 13 (HostReg.word .command).addr := BitVec.eq_of_toNat_eq h
    rw [ha, mappedWord_addr]; rfl
  · have hnone : regAt Config.params a = none :=
      Option.eq_none_iff_forall_ne_some.2 fun r hr => h r (addr_of_regAt hr)
    unfold State.mappedWord
    rw [hnone]

/-- The registers that stay readable while a command is pending (R58). -/
theorem readableBusy_iff (r : HostReg) :
    r.readableBusy = true ↔ r ∈ [HostReg.word .id, .word .version, .word .ctrl, .word .status] := by
  rcases r with q | q | q
  · cases q <;> simp [HostReg.readableBusy]
  · simp [HostReg.readableBusy]
  · simp [HostReg.readableBusy]

/-- Settles O54: the read draws exactly when the register is not one of the four. -/
theorem busyReadsAreDraws : Obligations.BusyReadsAreDraws := by
  intro s r hp
  have hbusy : s.busy = true := Option.isSome_iff_ne_none.2 hp
  dsimp only
  rw [hostRead_addr, hbusy]
  split_ifs with hdraw hmem hmem
  · exact absurd ((readableBusy_iff r).2 hmem) (by simpa using hdraw)
  · rfl
  · rfl
  · exact absurd ((readableBusy_iff r).1 (by simpa using hdraw)) hmem

theorem bitWord_toNat (b : Bool) : (bitWord b).toNat = b.toNat := by cases b <;> rfl

theorem modeBitWord_toNat (m : FilterMode) : (bitWord (modeBit m)).toNat = if m = .lowpass then 0 else 1 := by
  cases m <;> rfl

theorem curveBitWord_toNat (c : Curve) : (bitWord (curveBit c)).toNat = if c = .linear then 0 else 1 := by
  cases c <;> rfl

theorem snapWord_toNat (s : State) :
    s.snapWord.toNat = s.snap.regular.toNat + 2 * s.snap.lfo.toNat + 4 * s.snap.lowpass.toNat := by
  have h : ∀ b₀ b₁ b₂ : Bool,
      (bitWord b₀ ||| bitWord b₁ <<< 1 ||| bitWord b₂ <<< 2).toNat = b₀.toNat + 2 * b₁.toNat + 4 * b₂.toNat := by decide
  exact h _ _ _

/-- A field of at most 32 bits reads as its value, with zeros above it. -/
theorem zeroExtend_toNat {n : Nat} (x : BitVec n) (hn : n ≤ 32) : (x.zeroExtend 32).toNat = x.toNat := by
  have hp : 2 ^ n ≤ 2 ^ 32 := Nat.pow_le_pow_right (by decide) hn
  exact (BitVec.toNat_setWidth 32 x).trans (Nat.mod_eq_of_lt (x.isLt.trans_le hp))

/-- Settles O53: an idle read gives what the map shows, and each register shows its part of the state. -/
theorem idleReadsShowTheRegister : Obligations.IdleReadsShowTheRegister := by
  intro s a
  refine ⟨fun hp => ⟨fun r => ?_, fun ha => ?_⟩, ?_, fun i => ⟨?_, ?_⟩, fun k => rfl, fun x => ?_, ?_,
    fun i => ⟨rfl, rfl⟩, fun k c => rfl⟩
  · rw [hostRead_idle hp, mappedWord_addr]; rfl
  · rw [hostRead_idle hp, mappedWord_eq_zero ha]; rfl
  · simp only [List.forall_mem_cons, List.not_mem_nil, false_imp_iff, implies_true, and_true]
    refine ⟨rfl, rfl, bitWord_toNat _, rfl, snapWord_toNat s, zeroExtend_toNat _ (by decide),
      zeroExtend_toNat _ (by decide), rfl, ?_, rfl, rfl, modeBitWord_toNat _, rfl⟩
    change s.causeWord.toNat = _
    unfold State.causeWord
    rcases s.err.cause with _ | c
    · rfl
    · cases c <;> rfl
  · exact zeroExtend_toNat _ (by decide)
  · exact curveBitWord_toNat _
  · exact hiHalf_append_loHalf _
  · simp only [List.forall_mem_cons, List.not_mem_nil, false_imp_iff, implies_true, and_true, State.read64]

/-! ### What the host stores -/

theorem isConfig_of_isOperand {r : HostReg} (h : r.isOperand = true) : r.isConfig = false := by
  rcases r with q | q | q <;> cases q <;> simp_all [HostReg.isOperand, HostReg.isConfig]

section
variable {r : HostReg} {s : State}

/-- A write to an operand, control-frame or unlocked configuration register is stored, whether or not a command is
pending (R59). -/
theorem hostWrite_stored (hr : r.isOperand = true ∨ (r.isConfig = true ∧ s.cfgLock = false)) (v : Word) :
    s.hostWrite Config.params (BitVec.ofNat 13 r.addr) v = s.noteBusyWrite.storeReg r v := by
  rw [hostWrite_addr]
  rcases hr with ho | ⟨hc, hl⟩
  · exact writeReg_operand v (isConfig_of_isOperand ho) ho
  · exact writeReg_unlocked v hc hl

theorem hostWrite_stored_idle (h : s.pend = none) (hr : r.isOperand = true ∨ (r.isConfig = true ∧ s.cfgLock = false))
    (v : Word) : s.hostWrite Config.params (BitVec.ofNat 13 r.addr) v = s.storeReg r v := by
  rw [hostWrite_stored hr, noteBusyWrite_idle h]

end

/-- A store neither reads nor writes the pending word and the violation record. -/
theorem storeReg_pend_viol (r : HostReg) (v : Word) (s : State) (p : Option Word) (l : List Violation) :
    { s with pend := p, viol := l }.storeReg r v = { s.storeReg r v with pend := p, viol := l } := by
  rcases r with q | q | q <;> cases q <;> rfl

/-- Settles O59: the two writes store the same word, and only the busy one is recorded. -/
theorem busyWriteTakesEffectAndIsRecorded : Obligations.BusyWriteTakesEffectAndIsRecorded := by
  intro s r v w hp hr
  have hbusy : s.noteBusyWrite = { s with pend := some w, viol := s.viol ++ [.busyWrite] } := by
    rw [noteBusyWrite_eq_pend, hp]; rfl
  have hidle : { s with pend := none }.hostWrite Config.params (BitVec.ofNat 13 r.addr) v =
      { s.storeReg r v with pend := none, viol := s.viol } :=
    (hostWrite_stored_idle (s := { s with pend := none }) rfl hr v).trans (storeReg_pend_viol r v s none s.viol)
  dsimp only
  rw [hostWrite_stored hr, hbusy, storeReg_pend_viol, hidle]

section
variable (s : State)

theorem slot_setSlot (i j : Fin Config.nslot) (c : Slot) :
    (s.setSlot i c).slot j = if j = i then c else s.slot j := by
  simp [State.slot, State.setSlot, Vector.getElem_set, Fin.ext_iff, eq_comm]

theorem setSlot_setSlot (i : Fin Config.nslot) (c d : Slot) : (s.setSlot i c).setSlot i d = s.setSlot i d := by
  simp [State.setSlot]

/-- A store to a 64-bit register replaces its value and no other's (R25, R42, R43). -/
theorem read64_store64 {x : Reg64} (hx : (HostReg.lo x).isOperand = true ∨ (HostReg.lo x).isConfig = true) (y : Reg64)
    (v : FX64) : (s.store64 x v).read64 y = if y = x then v else s.read64 y := by
  cases x with
  | slotMin i | slotMax i =>
    cases y with
    | slotMin j | slotMax j => by_cases h : j = i <;> simp [State.store64, State.read64, slot_setSlot, h]
    | _ => rfl
  | arg0 | arg1 | svfRes | svfDrive | oscAmp => cases y <;> rfl
  | _ => simp [HostReg.isOperand, HostReg.isConfig] at hx

/-- The last of two stores to a register is kept. -/
theorem store64_store64 (x : Reg64) (v w : FX64) : (s.store64 x v).store64 x w = s.store64 x w := by
  cases x with
  | slotMin i | slotMax i => simp [State.store64, setSlot_setSlot, slot_setSlot]
  | _ => rfl

/-- A store to a 64-bit register leaves every 32-bit register. -/
theorem read32_store64 (x : Reg64) (v : FX64) (q : Reg32) : (s.store64 x v).read32 q = s.read32 q := by
  cases x with
  | slotMin i | slotMax i =>
    cases q with
    | slotCurve j => by_cases h : j = i <;> simp [State.store64, State.read32, slot_setSlot, h]
    | _ => rfl
  | _ => cases q <;> rfl

/-- A store to a 64-bit register changes only the operand registers and the configuration. -/
theorem store64_eq (x : Reg64) (v : FX64) :
    s.store64 x v = { s with regs := (s.store64 x v).regs, cfg := (s.store64 x v).cfg } := by
  cases x <;> rfl

end

/-- The two words of a 64-bit register are guarded alike. -/
theorem writable_hi_iff_lo (x : Reg64) :
    (HostReg.hi x).isOperand = (HostReg.lo x).isOperand ∧ (HostReg.hi x).isConfig = (HostReg.lo x).isConfig := by
  cases x <;> exact ⟨rfl, rfl⟩

/-- Idle writes to the two words of a writable 64-bit register, in either order, store the whole value (R54). -/
theorem hostWrite_halves {s : State} {x : Reg64} (h : s.pend = none)
    (hx : (HostReg.lo x).isOperand = true ∨ ((HostReg.lo x).isConfig = true ∧ s.cfgLock = false)) (v : FX64) :
    let lo := BitVec.ofNat 13 (HostReg.lo x).addr
    let hi := BitVec.ofNat 13 (HostReg.hi x).addr
    (s.hostWrite Config.params lo (loHalf v)).hostWrite Config.params hi (hiHalf v) = s.store64 x v ∧
    (s.hostWrite Config.params hi (hiHalf v)).hostWrite Config.params lo (loHalf v) = s.store64 x v := by
  obtain ⟨hop, hcf⟩ := writable_hi_iff_lo x
  have hx' : (HostReg.hi x).isOperand = true ∨ ((HostReg.hi x).isConfig = true ∧ s.cfgLock = false) := by
    rwa [hop, hcf]
  have hsame (u : FX64) : (s.store64 x u).read64 x = u := by
    rw [read64_store64 s (hx.imp_right And.left), if_pos rfl]
  have hpend (u : FX64) : (s.store64 x u).pend = none := by rw [store64_eq]; exact h
  have hlock (u : FX64) : (s.store64 x u).cfgLock = s.cfgLock := by rw [store64_eq]
  dsimp only
  rw [hostWrite_stored_idle h hx, hostWrite_stored_idle h hx']
  simp only [State.storeReg]
  rw [hostWrite_stored_idle (hpend _) (by rwa [hlock]), hostWrite_stored_idle (hpend _) (by rwa [hlock])]
  simp only [State.storeReg, hsame, store64_store64, setHi_setLo, setLo_setHi, and_self]

/-- Settles O57: both orders store the whole value, and the store has its laws. -/
theorem sixtyFourBitWritesInEitherOrder : Obligations.SixtyFourBitWritesInEitherOrder := by
  intro s x y v hp hx
  obtain ⟨hlohi, hhilo⟩ := hostWrite_halves hp hx v
  have hread := read64_store64 s (hx.imp_right And.left)
  simp only [loHalf, hiHalf] at hlohi hhilo
  dsimp only
  rw [hlohi, hhilo]
  exact ⟨rfl, (hread x v).trans (if_pos rfl), fun hy => (hread y v).trans (if_neg hy), read32_store64 s x v,
    store64_eq s x v⟩

/-! ### A command seen from the host -/

section
variable (P : Params) (s : State)

theorem blockCmd_agenda (n : Nat) : (blockCmd P n s).inputs = s.inputs ∧ (blockCmd P n s).sched = s.sched := by
  unfold blockCmd
  dsimp only
  split <;> simp

/-- No command changes what the host does next or what the scheduler picks. -/
theorem execFor_agenda (i : Instr) : (execFor P i s).inputs = s.inputs ∧ (execFor P i s).sched = s.sched := by
  cases i with
  | pmapEval slot => simp [execFor, pmapEval]
  | oscSetFreq k => simp [execFor, oscSetFreq]
  | oscSetAmp k => simp [execFor, oscSetAmp]
  | oscProcess k => simp [execFor, oscProcessCmd]
  | svfProcess => simp [execFor, svfProcessCmd]
  | dlyUpdate => simp [execFor]
  | dlyProcess => simp [execFor, dlyProcessCmd]
  | ctrlUpdate => simp [execFor]
  | sample => simp [execFor, sampleCmd]
  | block n => exact blockCmd_agenda P s _
  | _ => exact ⟨rfl, rfl⟩

end

section
variable {s t : State} {i : Instr} {rest : List HostEvent}

/-- A step at the head of a run. -/
theorem run_succ_of_step (h : step s = .next t) (n : Nat) : core.run (n + 1) s = core.run n t := by
  have hcore : core.step s = .next t := h
  simp only [Host.Core.run, hcore]

/-- The host's step that issues a command while IDLE makes it pending (R122). -/
theorem step_cmd (hp : s.pend = none) (hin : s.inputs = cmd i :: rest) :
    step s = .next { s with pend := some (encode i), inputs := rest, sched := s.sched.tail } := by
  have hlegal : (cmd i).legal = true := rfl
  have hwrite : s.hostWrite Config.params (BitVec.ofNat 13 (HostReg.word .command).addr) (encode i) =
      { s with pend := some (encode i) } := by
    rw [hostWrite_addr]
    change s.writeCommand (encode i) = _
    simp only [State.writeCommand, hp]
  have hact : s.hostAct Config.params (cmd i) = { s with pend := some (encode i), inputs := rest } := by
    change (s.hostWrite Config.params _ _).nextInput = _
    rw [hwrite, State.nextInput, hin]
    rfl
  simp only [step, hp, hostStep, hin, hlegal, if_true, hact]
  rfl

/-- The engine executes a pending well-formed command when the scheduler does not pick the host (R123). -/
theorem step_pending (hi : i.wellFormed = true) (hp : s.pend = some (encode i)) (hs : s.sched.head? ≠ some .host)
    (he : exec i s = .next t) : step s = .next t.retire := by
  have hm : s.engineMoves = true := by simp [State.engineMoves, State.busy, hp, hs]
  simp only [step, hp, hm, if_true, engineStep, decode_encode hi, he]

/-- A WAIT while IDLE reads STATUS and goes on (R74). -/
theorem step_wait_idle (hp : s.pend = none) (hin : s.inputs = .wait :: rest) :
    step s = .next { s with
      inputs := rest
      sched := s.sched.tail
      replies := (State.statusAddr, s.statusWord) :: s.replies } := by
  have hread : s.hostRead Config.params State.statusAddr = s.reply State.statusAddr s.statusWord := by
    rw [hostRead_idle hp]
    exact congrArg (s.reply State.statusAddr) (mappedWord_addr (.word .status) s)
  have hact : s.hostAct Config.params .wait =
      { s with inputs := rest, replies := (State.statusAddr, s.statusWord) :: s.replies } := by
    have hbusy : s.busy = false := by rw [State.busy, hp]; rfl
    simp only [State.hostAct, hbusy, hread, State.nextInput, State.reply, hin]
    rfl
  simp only [step, hp, hostStep, hin, HostEvent.legal, if_true, hact]
  rfl

end

/-- Settles O60, by the three steps: the host's write, the engine's command, the host's read of STATUS. -/
theorem commandThenWaitSeesItsEffect : Obligations.CommandThenWaitSeesItsEffect := by
  intro i s t rest hi hp hs hin hexec
  have ht : execFor Config.params i _ = t := Host.Outcome.next.inj ((exec_eq i _).symm.trans hexec)
  obtain ⟨hinputs, hsched⟩ := execFor_agenda Config.params { s with pend := some (encode i), inputs := .wait :: rest } i
  rw [ht] at hinputs hsched
  have hnil : t.sched = [] := hsched.trans hs
  have hissue : step s = .next { s with pend := some (encode i), inputs := .wait :: rest } := by
    rw [step_cmd (rest := .wait :: rest) hp hin, hs]; rfl
  have hexecute := step_pending hi rfl (by rw [hs]; nofun) hexec
  have hwait := step_wait_idle (s := t.retire) (rest := rest) rfl hinputs
  refine ⟨?_, (statusBits { t with pend := none } 0).1⟩
  refine (run_succ_of_step hissue 2).trans ((run_succ_of_step hexecute 1).trans
    ((run_succ_of_step hwait 0).trans ?_))
  simp only [retire_sched, hnil, List.tail_nil]
  rfl

end Machine
end Sys2Proof
end

section
/-! Proofs of the family 30_encoding.md: the encoder and the decoder are inverse to each other (R70), the checks of R71 in
terms of numbers, and what every command leaves alone (R69). -/

namespace Sys2Proof

/-- Settles O1, by the earlier lemma that checks each of the 15 rows of R70. -/
theorem encodedCommandDecodesToItself : Obligations.EncodedCommandDecodesToItself :=
  fun _ hi => decode_encode hi

/-! ### The checks of R71 -/

section
variable {P : Params} {w : Word} {op : Opcode} {sel : BitVec 4} {imm : BitVec 16}

/-- The check of SVF_SETMODE: bits 15:1 of IMM are 0 when IMM is 0 or 1 (R68, R71). -/
theorem modeBits_eq_zero_iff : imm.extractLsb' 1 15 = 0 ↔ imm.toNat < 2 := by
  have hlt := imm.isLt
  simp only [BitVec.toNat_eq, BitVec.extractLsb'_toNat, Nat.shiftRight_eq_div_pow, BitVec.ofNat_eq_ofNat,
    BitVec.toNat_ofNat]
  omega

/-- A word with a reserved OPC fails the first check (R71, R72). -/
theorem decodeFor_of_reserved (h : ∀ op : Opcode, op.byte ≠ (fieldsOf w).opc) : decodeFor P w = .error .badOpc := by
  have hnone : Opcode.ofByte (fieldsOf w).opc = none :=
    Option.eq_none_iff_forall_ne_some.2 fun op hop => h op (byte_of_ofByte hop)
  unfold decodeFor
  simp only [hnone]

/-- The checks that follow the first one, over the fields of the word as numbers (R71). -/
theorem decodeFor_of_byte (h : op.byte = (fieldsOf w).opc) : decodeFor P w =
    if (fieldsOf w).rsv.toNat ≠ 0 then .error .badRsv
    else if op.maxSel < (fieldsOf w).sel.toNat then .error .badSel
    else if op = .svfSetMode ∧ 2 ≤ (fieldsOf w).imm.toNat then .error .badImm
    else if op = .block ∧ P.blkMax < (fieldsOf w).imm.toNat then .error .badSize
    else if op.usesImm = false ∧ (fieldsOf w).imm.toNat ≠ 0 then .error .badImm
    else .ok (op.toInstr (fieldsOf w).sel (fieldsOf w).imm) := by
  have hrsv : (fieldsOf w).rsv ≠ 0 ↔ (fieldsOf w).rsv.toNat ≠ 0 := BitVec.toNat_ne_iff_ne.symm
  have himm : (fieldsOf w).imm ≠ 0 ↔ (fieldsOf w).imm.toNat ≠ 0 := BitVec.toNat_ne_iff_ne.symm
  have hmode : (fieldsOf w).imm.extractLsb' 1 15 ≠ 0 ↔ 2 ≤ (fieldsOf w).imm.toNat :=
    modeBits_eq_zero_iff.not.trans not_lt
  unfold decodeFor
  simp only [← h, ofByte_byte, hrsv, hmode, himm]

/-- A word that decodes has passed every check of R71, and gives the command of its opcode. -/
theorem checks_of_decodeFor {i : Instr} (h : decodeFor P w = .ok i) : ∃ op : Opcode,
    op.byte = (fieldsOf w).opc ∧ (fieldsOf w).rsv = 0 ∧ (fieldsOf w).sel.toNat ≤ op.maxSel ∧
    (op = .svfSetMode → (fieldsOf w).imm.toNat < 2) ∧ (op.usesImm = false → (fieldsOf w).imm = 0) ∧
    i = op.toInstr (fieldsOf w).sel (fieldsOf w).imm := by
  by_cases hlegal : ∃ op : Opcode, op.byte = (fieldsOf w).opc
  · obtain ⟨op, hop⟩ := hlegal
    rw [decodeFor_of_byte hop] at h
    split_ifs at h with hrsv hsel hmode _ himm
    injection h with h
    exact ⟨op, hop, BitVec.eq_of_toNat_eq (not_not.1 hrsv), not_lt.1 hsel, fun e => not_le.1 fun hle => hmode ⟨e, hle⟩,
      fun e => BitVec.eq_of_toNat_eq (not_not.1 fun hne => himm ⟨e, hne⟩), h.symm⟩
  · rw [decodeFor_of_reserved (not_exists.1 hlegal)] at h
    cases h

/-! ### Encoding what was decoded -/

theorem ofNat_slotOfSel : ∀ sel : BitVec 4, sel.toNat ≤ 5 → BitVec.ofNat 4 (slotOfSel sel).val = sel := by decide

theorem selOfOsc_oscOfSel : ∀ sel : BitVec 4, sel.toNat ≤ 1 → selOfOsc (oscOfSel sel) = sel := by decide

theorem immOfMode_modeOfImm (h : imm.toNat < 2) : immOfMode (modeOfImm imm) = imm := by
  have hcases : imm = 0#16 ∨ imm = 1#16 := by bv_omega
  rcases hcases with rfl | rfl <;> rfl

/-- The command of an opcode has the field values that pass the checks: an operand is encoded as it was read, and an unused
field is 0 (R70). -/
theorem fields_toInstr (hsel : sel.toNat ≤ op.maxSel) (hmode : op = .svfSetMode → imm.toNat < 2)
    (himm : op.usesImm = false → imm = 0) : (op.toInstr sel imm).fields = ⟨op.byte, sel, 0, imm⟩ := by
  have hunused (h : op.maxSel = 0) : sel = 0 := BitVec.eq_of_toNat_eq (Nat.le_zero.1 (h ▸ hsel))
  cases op
  case pmapEval => rw [himm rfl, Opcode.toInstr, Instr.fields, ofNat_slotOfSel sel hsel]
  case oscSetFreq => rw [himm rfl, Opcode.toInstr, Instr.fields, selOfOsc_oscOfSel sel hsel]
  case oscSetAmp => rw [himm rfl, Opcode.toInstr, Instr.fields, selOfOsc_oscOfSel sel hsel]
  case oscProcess => rw [himm rfl, Opcode.toInstr, Instr.fields, selOfOsc_oscOfSel sel hsel]
  case svfSetMode => rw [hunused rfl, Opcode.toInstr, Instr.fields, immOfMode_modeOfImm (hmode rfl)]
  case encApply => rw [hunused rfl]; rfl
  case block => rw [hunused rfl]; rfl
  all_goals rw [hunused rfl, himm rfl]; rfl

end

/-- Settles O2: the checks fix every field that the command does not carry, so packing its fields gives the word back. -/
theorem decodedWordIsTheEncoding : Obligations.DecodedWordIsTheEncoding := by
  intro w i h
  refine ⟨?_, wellFormedFor_of_decodeFor h⟩
  obtain ⟨op, hop, hrsv, hsel, hmode, himm, rfl⟩ := checks_of_decodeFor h
  rw [encode, fields_toInstr hsel hmode himm, hop, ← hrsv]
  exact pack_fieldsOf w

/-! ### The first failing check -/

/-- The OPC values of R70 are the bytes of the opcodes. -/
theorem legal_iff_exists_byte (n : Nat) :
    n ∈ [0x00, 0x01, 0x10, 0x20, 0x21, 0x22, 0x30, 0x31, 0x32, 0x40, 0x41, 0x50, 0x51, 0x60, 0x61] ↔
      ∃ op : Opcode, op.byte.toNat = n := by
  have hall : ∀ op : Opcode, op ∈ Opcode.all := by intro op; cases op <;> decide
  change n ∈ Opcode.all.map (fun op => op.byte.toNat) ↔ _
  rw [List.mem_map]
  exact exists_congr fun op => and_iff_right (hall op)

/-- What R71 says of an opcode by its OPC value: the largest SEL, and which opcodes the checks of IMM concern. -/
theorem byte_checks (op : Opcode) :
    (if op.byte.toNat = 0x10 then 5 else if op.byte.toNat ∈ [0x20, 0x21, 0x22] then 1 else 0) = op.maxSel ∧
    (op.byte.toNat = 0x31 ↔ op = .svfSetMode) ∧ (op.byte.toNat = 0x61 ↔ op = .block) ∧
    (op.byte.toNat ∉ [0x31, 0x51, 0x61] ↔ op.usesImm = false) := by
  cases op <;> decide

/-- Settles O4: a reserved OPC fails the first check, and for a legal one the proof follows the checks in their order, each
on the words that passed those before it. -/
theorem firstFailingCheckIsReported : Obligations.FirstFailingCheckIsReported := by
  intro w
  obtain ⟨hopc, hsel, hrsv, himm⟩ := fieldsOf_toNat w
  dsimp only
  rw [legal_iff_exists_byte, ← hopc, ← hsel, ← hrsv, ← himm]
  by_cases hlegal : ∃ op : Opcode, op.byte = (fieldsOf w).opc
  · obtain ⟨op, hop⟩ := hlegal
    have hexists : ∃ op' : Opcode, op'.byte.toNat = op.byte.toNat := ⟨op, rfl⟩
    obtain ⟨hmax, hsetMode, hblock, huses⟩ := byte_checks op
    have hdecode : decode w = _ := decodeFor_of_byte hop
    have hblkMax : Config.params.blkMax = 256 := rfl
    rw [← hop, hmax, hsetMode, hblock, huses, hdecode, hblkMax]
    by_cases hrsv : (fieldsOf w).rsv.toNat = 0
    · rcases lt_or_ge op.maxSel (fieldsOf w).sel.toNat with hsel | hsel
      · simp [hexists, hrsv, hsel, hsel.not_ge]
      · by_cases hmode : op = .svfSetMode ∧ 2 ≤ (fieldsOf w).imm.toNat
        · obtain ⟨rfl, himm⟩ := hmode
          simp [hexists, hrsv, hsel, hsel.not_gt, himm]
        · by_cases hsize : op = .block ∧ 256 < (fieldsOf w).imm.toNat
          · obtain ⟨rfl, himm⟩ := hsize
            simp [hexists, hrsv, hsel, hsel.not_gt, himm, Opcode.usesImm]
          · by_cases hunused : op.usesImm = false ∧ (fieldsOf w).imm.toNat ≠ 0 <;>
              simp [hexists, hrsv, hsel, hsel.not_gt, hmode, hsize, hunused]
    · simp [hexists, hrsv]
  · have hnone : ¬∃ op : Opcode, op.byte.toNat = (fieldsOf w).opc.toNat := by simpa only [BitVec.toNat_inj] using hlegal
    have hdecode : decode w = .error .badOpc := decodeFor_of_reserved (not_exists.1 hlegal)
    simp [hnone, hdecode]

/-- Settles O3, by decoding the ten fixed words. -/
theorem workedEncodings : Obligations.WorkedEncodings := by
  unfold Obligations.WorkedEncodings
  decide

namespace Machine

/-! ### What every command leaves alone -/

section
variable (P : Params) (s : State)

/-- What the host has put in place for the engine beside the configuration and CF_ENC, and what it has read. -/
def State.hostSide (s : State) :
    Option Word × FX64 × FX64 × BitVec 3 × Vector (BitVec 16) Config.nslot × List (Addr × Word) :=
  (s.pend, s.regs.arg0, s.regs.arg1, s.cf.switch, s.cf.knobs, s.replies)

theorem blockCmd_hostSide (n : Nat) : (blockCmd P n s).hostSide = s.hostSide := by
  unfold blockCmd
  dsimp only
  split <;> simp [State.hostSide, ctrlUpdate_cf]

/-- No command writes the pending word, ARG0, ARG1, the switches, the knobs or the record of the host's reads (R69). -/
theorem execFor_hostSide (i : Instr) : (execFor P i s).hostSide = s.hostSide := by
  cases i with
  | pmapEval slot => simp [State.hostSide, execFor, pmapEval]
  | oscSetFreq k => simp [State.hostSide, execFor, oscSetFreq]
  | oscSetAmp k => simp [State.hostSide, execFor, oscSetAmp]
  | oscProcess k => simp [State.hostSide, execFor, oscProcessCmd]
  | svfProcess => simp [State.hostSide, execFor, svfProcessCmd]
  | dlyUpdate => simp [State.hostSide, execFor]
  | dlyProcess => simp [State.hostSide, execFor, dlyProcessCmd]
  | ctrlUpdate => simp [State.hostSide, execFor, ctrlUpdate_cf]
  | sample => simp [State.hostSide, execFor, sampleCmd]
  | block n => exact blockCmd_hostSide P s _
  | _ => rfl

end

/-- Settles O10: every command has an effect, and the effect leaves the named fields alone. -/
theorem everyCommandCompletes : Obligations.EveryCommandCompletes := by
  intro i s _
  have hside := execFor_hostSide Config.params s i
  simp only [State.hostSide, Prod.mk.injEq] at hside
  obtain ⟨hpend, harg0, harg1, hswitch, hknobs, hreplies⟩ := hside
  obtain ⟨hlock, hcfg⟩ := execFor_config Config.params s i
  obtain ⟨hinputs, hsched⟩ := execFor_agenda Config.params s i
  exact ⟨_, exec_eq i s, hpend, harg0, harg1, hlock, hcfg, hswitch, hknobs, hinputs, hsched, hreplies⟩

end Machine
end Sys2Proof
end

section
/-! Proofs of the family 40_parameter_map.md: the LINEAR map (R76, R80), the contract of LOGMAP (R77), this hardware's
reference kernels (R77, R84), and PMAP_EVAL (R78, R79, R81). -/

namespace Sys2Proof

namespace Machine

/-! ### The LINEAR map -/

section
variable {mn mx raw raw' : FX64}

/-- The LINEAR map in integers, where max − min does not saturate (R76, R80). -/
theorem linmap_toInt (hd : |mx.toInt - mn.toInt| < 2 ^ 63) (h0 : 0 ≤ raw.toInt) (h1 : raw.toInt ≤ 2 ^ 32) :
    (linmap mn mx raw).toInt = mn.toInt + raw.toInt * (mx.toInt - mn.toInt) / 2 ^ 32 := by
  obtain ⟨hdl, hdu⟩ := abs_lt.1 hd
  have hsub : (fsub mx mn).toInt = mx.toInt - mn.toInt := sat_toInt_of_bounds hdl.le (by omega)
  have hmul := fmul_gain_toInt raw (fsub mx mn) h0 h1
  have hbetween := mul_div_between (b := mx.toInt - mn.toInt) h0 h1
  have hmn := And.intro (toInt_lower mn) (toInt_upper mn)
  have hmx := And.intro (toInt_lower mx) (toInt_upper mx)
  rw [hsub] at hmul
  rw [linmap, fadd_toInt, hmul]
  omega

/-- The LINEAR map is monotonic in the reading: it rises where max − min ≥ 0 and falls where max − min ≤ 0 (R80). -/
theorem linmap_mono (hd : |mx.toInt - mn.toInt| < 2 ^ 63) (h0 : 0 ≤ raw.toInt) (hr : raw.toInt ≤ raw'.toInt)
    (h1 : raw'.toInt ≤ 2 ^ 32) :
    (mn.toInt ≤ mx.toInt → (linmap mn mx raw).toInt ≤ (linmap mn mx raw').toInt) ∧
    (mx.toInt ≤ mn.toInt → (linmap mn mx raw').toInt ≤ (linmap mn mx raw).toInt) := by
  rw [linmap_toInt hd h0 (hr.trans h1), linmap_toInt hd (h0.trans hr) h1]
  constructor <;> intro hle <;> refine add_le_add_right (Int.ediv_le_ediv (by decide) ?_) _
  · exact mul_le_mul_of_nonneg_right hr (by omega)
  · exact mul_le_mul_of_nonpos_right hr (by omega)

end

@[simp] theorem linmap_zero (mn mx : FX64) : linmap mn mx 0#64 = mn := by
  rw [linmap, fmul_zero_left, fadd_zero_right]

theorem linmap_one {mn mx : FX64} (hd : |mx.toInt - mn.toInt| < 2 ^ 63) : linmap mn mx ONE = mx := by
  refine BitVec.eq_of_toInt_eq ?_
  rw [linmap_toInt hd (by decide) (by decide), one_toInt, Int.mul_ediv_cancel_left _ (by decide)]
  omega

/-- Settles O14: in integers the map is mn + ⌊raw × (mx − mn) / 2^32⌋, whose second term lies between 0 and mx − mn. -/
theorem linearMapStaysInRange : Obligations.LinearMapStaysInRange := by
  intro mn mx raw raw' hd h0 hr h1
  have hraw := hr.trans h1
  have hbetween := mul_div_between (b := mx.toInt - mn.toInt) h0 hraw
  have hmap := linmap_toInt hd h0 hraw
  exact ⟨linmap_zero mn mx, linmap_one hd, by omega, by omega, linmap_mono hd h0 hr h1⟩

end Machine

/-! ### The logarithmic curve -/

section
variable (mid : FX64 → FX64 → FX64 → FX64) (mn mx : FX64)

@[simp] theorem logCurve_zero : logCurve mid mn mx 0#64 = mn := rfl

@[simp] theorem logCurve_one : logCurve mid mn mx ONE = mx := rfl

/-- A range with equal ends gives that constant for every reading (R81). -/
@[simp] theorem logCurve_self (raw : FX64) : logCurve mid mn mn raw = mn := by
  simp only [logCurve, if_true, ite_self]

end

/-- A monotonic curve lies between its two ends (R77, condition 3). -/
theorem LogMonotonic.between {mid : FX64 → FX64 → FX64 → FX64} (hmono : LogMonotonic mid) {mn mx raw : FX64}
    (hmn : 0 < mn.toInt) (hmx : 0 < mx.toInt) (h0 : 0 ≤ raw.toInt) (h1 : raw.toInt ≤ ONE.toInt) :
    min mn.toInt mx.toInt ≤ (logCurve mid mn mx raw).toInt ∧
    (logCurve mid mn mx raw).toInt ≤ max mn.toInt mx.toInt := by
  obtain ⟨hriseL, hfallL⟩ := hmono mn mx 0#64 raw hmn hmx le_rfl h0 h1
  obtain ⟨hriseR, hfallR⟩ := hmono mn mx raw ONE hmn hmx h0 h1 le_rfl
  rw [logCurve_zero] at hriseL hfallL
  rw [logCurve_one] at hriseR hfallR
  omega

/-- Settles O15: the ends and the constant case are fixed by `logCurve`, and the rest follows from the monotonicity that
every admitted LOGMAP has. -/
theorem logMapMeetsItsContract : Obligations.LogMapMeetsItsContract := by
  intro K mn mx raw raw' hmn hmx h0 hr h1
  obtain ⟨hrise, hfall⟩ := K.logMid_monotonic mn mx raw raw' hmn hmx h0 hr h1
  obtain ⟨hlo, hhi⟩ := K.logMid_monotonic.between hmn hmx h0 (hr.trans h1)
  refine ⟨logCurve_zero _ mn mx, logCurve_one _ mn mx, hlo, hhi, hrise, hfall, ?_⟩
  rintro rfl r
  exact logCurve_self _ mn r

/-! ### This hardware's sine and logarithmic curve -/

/-- Where the sine k quarters into the period is an integer in raw units, that integer is its rounded value (R84). -/
theorem isNearestEven_sin_quarter {k : Nat} {n : Int} (h : Real.sin (k * (Real.pi / 2)) * 2 ^ 32 = n) :
    IsNearestEven n (Real.sin (2 * Real.pi * (k * 2 ^ 30 : Nat) / 2 ^ 32) * 2 ^ 32) := by
  have hangle : 2 * Real.pi * (k * 2 ^ 30 : Nat) / 2 ^ 32 = k * (Real.pi / 2) := by push_cast; ring
  rw [hangle, h]
  exact isNearestEven_int n

theorem sin_three_pi_div_two : Real.sin (3 * (Real.pi / 2)) = -1 := by
  rw [show 3 * (Real.pi / 2) = Real.pi / 2 + Real.pi by ring, Real.sin_add_pi, Real.sin_pi_div_two]

/-- `sinCurve` fixes the exact sines 0, 1, 0 and −1 at the quarter phases; elsewhere this hardware's sine is `sinRef`
(R84). -/
theorem isSinRef_kernels : Config.kernels.IsSinRef := by
  intro p
  unfold sinCurve
  split_ifs with h0 h1 h2 h3
  · subst h0
    exact isNearestEven_sin_quarter (k := 0) (n := 0) (by simp)
  · subst h1
    exact isNearestEven_sin_quarter (k := 1) (n := 2 ^ 32) (by norm_num)
  · subst h2
    exact isNearestEven_sin_quarter (k := 2) (n := 0) (by norm_num [mul_div_cancel₀])
  · subst h3
    exact isNearestEven_sin_quarter (k := 3) (n := -2 ^ 32) (by norm_num [sin_three_pi_div_two])
  · exact (sinRef_spec p).1

/-- Multiplying by val(mn) × 2^32 in R77 is multiplying by the raw integer of mn, and the ratio of two values is the
ratio of their raw integers. -/
theorem logmapReal_eq (mn mx t : ℝ) :
    mn / 2 ^ 32 * (mx / 2 ^ 32 / (mn / 2 ^ 32)) ^ t * 2 ^ 32 = mn * (mx / mn) ^ t := by
  rw [div_div_div_cancel_right₀ (by norm_num)]
  ring

theorem isLogmapRef_kernels : Config.kernels.IsLogmapRef := by
  intro mn mx raw hmn hmx
  obtain ⟨n, hn, hval⟩ := logRef_spec (raw := raw) hmn hmx
  exact ⟨n, by rwa [logmapReal_eq], (logCurve_logRef hmn hmx).trans hval⟩

/-- Settles O16, the sine by its quarter phases and `sinRef`, the curve by `logRef`. -/
theorem referenceKernelsAreAdmitted : Obligations.ReferenceKernelsAreAdmitted :=
  ⟨isSinRef_kernels, isLogmapRef_kernels⟩

namespace Machine

/-! ### PMAP_EVAL -/

/-- PMAP_EVAL applies the slot's map to ARG0 and writes the result to RES0 (R81). -/
theorem exec_pmapEval (i : Fin Config.nslot) (s : State) :
    exec (.pmapEval i) s = .next ((pmap Config.kernels i s.regs.arg0 s).1.setRes0
      (pmap Config.kernels i s.regs.arg0 s).2) := rfl

/-- The check of the reading records a violation outside [0, ONE] and does nothing else (R79). -/
theorem requireReading_eq (raw : FX64) (s : State) :
    s.require (readingInRange raw) .rawRange =
      { s with viol := s.viol ++ if 0 ≤ raw.toInt ∧ raw.toInt ≤ 2 ^ 32 then [] else [.rawRange] } := by
  simp only [require_eq, readingInRange, one_toInt, decide_eq_true_eq]

/-- Settles O13, by the three cases of the slot's map: LINEAR, LOGARITHMIC on a legal range, and a draw. -/
theorem pmapEvalWritesTheMappedValue : Obligations.PmapEvalWritesTheMappedValue := by
  intro i s
  have hslot : s.cfg.slots[i] = s.slot i := rfl
  dsimp only
  rw [exec_pmapEval, hslot]
  refine ⟨fun hc => ?_, fun hc hmn hmx => ?_, fun hc hbad => ?_⟩
  · rw [pmap_of_linear _ _ _ _ hc, requireReading_eq]; rfl
  · rw [pmap_of_log _ _ _ _ hc, requireReading_eq, logmap_of_legal _ _ _ _ _ hmn hmx]; rfl
  · rw [pmap_of_log _ _ _ _ hc, requireReading_eq, logmap_of_illegal _ _ _ _ _ hbad]; rfl

end Machine
end Sys2Proof
end

section
/-! Proofs of the family 41_oscillator_lfo.md: the SINE waveform (R84, R85), the phase of an oscillator (R86, R88), and the
three oscillator commands (R87, R89 to R91). -/

namespace Sys2Proof

/-! ### The SINE waveform -/

/-- Every sine the model admits lies in [−ONE, ONE] (condition 1 of R84): the quarter phases by their fixed values, the
others by the kernel's contract. -/
theorem sinCurve_range (K : Kernels) (p : Phase) : SinInRange (sinCurve K.sinMid p) := by
  unfold sinCurve
  split_ifs
  iterate 4 decide
  exact K.sinMid_range p

/-- A factor in [−ONE, ONE] does not enlarge a value: rounding down does not pass the bound, which is an integer. -/
theorem abs_fmul_toInt_le {v : FX64} (hv : SinInRange v) (a : FX64) : |(fmul v a).toInt| ≤ |a.toInt| := by
  obtain ⟨hlo, hhi⟩ := hv
  have hv : |v.toInt| ≤ 2 ^ 32 := abs_le.2 ⟨hlo, hhi⟩
  have hprod : |v.toInt * a.toInt| ≤ |a.toInt| * 2 ^ 32 := by
    rw [abs_mul, mul_comm]
    exact mul_le_mul_of_nonneg_left hv (abs_nonneg _)
  obtain ⟨hpl, hpu⟩ := abs_le.1 hprod
  have hl := toInt_lower a
  have hu := toInt_upper a
  rw [fmul_toInt, abs_le]
  omega

/-- The product with −ONE is the saturated negation (R13, R14). -/
theorem fmul_neg_one_left (a : FX64) : fmul (-ONE) a = fneg a := by
  have : (-ONE).toInt * a.toInt / 2 ^ 32 = -a.toInt := by
    rw [show (-ONE).toInt = -1 * 2 ^ 32 by decide]; omega
  rw [fmul, this, fneg]

namespace Machine

/-- Settles O19: the sine is a factor in [−ONE, ONE], and it is 0, ONE, 0 and −ONE at the quarter phases. -/
theorem sineStaysWithinTheAmplitude : Obligations.SineStaysWithinTheAmplitude := by
  intro K p a
  exact ⟨abs_fmul_toInt_le (sinCurve_range K p) a, fmul_zero_left a, fmul_one_left a, fmul_zero_left a,
    fmul_neg_one_left a⟩

/-! ### The phase -/

@[simp] theorem oscillator_setOscillator (k : OscId) (o : Oscillator) (s : State) :
    (s.setOscillator k o).oscillator k = o := by
  cases k <;> rfl

/-- A call advances the unit's phase by one increment and keeps its frequency and amplitude (R86). -/
theorem oscProcess_oscillator (P : Params) (k : OscId) (s : State) :
    (oscProcess P k s).1.oscillator k =
      { s.oscillator k with phase := (s.oscillator k).phase + phinc P (s.oscillator k).freq } := by
  cases k
  · exact oscProcess_osc P .osc s
  · exact oscProcess_lfo P .lfo s

/-- The phase gains one increment per call, since no call changes the frequency that the increment comes from (R88). -/
theorem iterate_oscProcess_oscillator (P : Params) (k : OscId) (n : Nat) (s : State) :
    ((fun u => (oscProcess P k u).1)^[n] s).oscillator k = { s.oscillator k with
      phase := (s.oscillator k).phase + BitVec.ofNat 32 n * phinc P (s.oscillator k).freq } := by
  induction n with
  | zero => simp
  | succ n ih =>
    rw [Function.iterate_succ_apply', oscProcess_oscillator, ih, BitVec.ofNat_add, BitVec.add_mul, BitVec.one_mul,
      BitVec.add_assoc]

/-- Increments that add up to whole periods bring the phase back. -/
theorem ofNat_mul_eq_zero {n : Nat} {x : Phase} (h : n * x.toNat % 2 ^ 32 = 0) : BitVec.ofNat 32 n * x = 0#32 :=
  BitVec.eq_of_toNat_eq (by rw [BitVec.toNat_mul, BitVec.toNat_ofNat, Nat.mod_mul_mod, h]; rfl)

/-- Settles O20, by induction on the calls; a sample depends on the unit alone, which whole periods bring back. -/
theorem phaseGainsOneIncrementPerCall : Obligations.PhaseGainsOneIncrementPerCall := by
  intro P k n s
  have hunit := iterate_oscProcess_oscillator P k n s
  refine ⟨hunit, fun hperiods => ?_⟩
  rw [oscProcess_value, oscProcess_value, hunit, ofNat_mul_eq_zero hperiods, BitVec.add_zero]

/-! ### The commands -/

/-- Settles O17: each setter replaces one unit by itself with one field at ARG0. -/
theorem oscSettersWriteOneField : Obligations.OscSettersWriteOneField := fun _ => ⟨rfl, rfl, rfl, rfl⟩

/-- OSC_PROCESS in closed form: RES0, the unit's phase and the violation record are all that it changes (R86, R91). -/
theorem exec_oscProcess (k : OscId) (s : State) :
    exec (.oscProcess k) s = .next { s.setOscillator k { s.oscillator k with
        phase := (s.oscillator k).phase + phinc Config.params (s.oscillator k).freq } with
      regs := { s.regs with
        res0 := wave Config.kernels (Config.waveform k) (s.oscillator k).phase (s.oscillator k).amp }
      viol := s.viol ++ if inBand Config.params (s.oscillator k).freq then [] else [.freqRange] } := by
  rw [exec_eq, execFor, oscProcessCmd, oscProcess_eq]
  cases k <;> rfl

/-- The band check of this hardware in raw integers (R86). -/
theorem inBand_iff (f : FX64) : inBand Config.params f = true ↔ 0 < f.toInt ∧ f.toInt < 48000 * 2 ^ 31 := by
  rw [inBand, decide_eq_true_eq, nyq_eq]

/-- Settles O18: the closed form of OSC_PROCESS at each unit, with its fixed waveform and this hardware's sample rate. -/
theorem oscProcessGivesOneSample : Obligations.OscProcessGivesOneSample := by
  intro s
  simp only [exec_oscProcess, inBand_iff]
  exact ⟨rfl, rfl⟩

end Machine
end Sys2Proof
end

section
/-! Proofs of the family 42_filter.md: the filter's setters (R96, R97, R99, R100) and SVF_PROCESS (R95, R101). -/

namespace Sys2Proof.Machine

/-- Settles O21: each setter replaces the filter by itself with one field changed. -/
theorem filterSettersKeepTheIntegrators : Obligations.FilterSettersKeepTheIntegrators := fun _ _ => ⟨rfl, rfl⟩

/-- SVF_PROCESS in closed form: the integrators, RES0, RES1 and the violation record are all that it changes (R95,
R101). -/
theorem exec_svfProcess (s : State) :
    exec .svfProcess s = .next { s with
      svf := { s.svf with
        s1 := (filterOut Config.params s.arg0 s).s1
        s2 := (filterOut Config.params s.arg0 s).s2 }
      regs := { s.regs with
        res0 := selectedTap Config.params s.arg0 s
        res1 := otherTap Config.params s.arg0 s }
      viol := s.viol ++ if inBand Config.params s.svf.fc then [] else [.fcRange] } := by
  rw [exec_eq, execFor, svfProcessCmd, filterProcess_eq]
  rfl

/-- Settles O22: the closed form of SVF_PROCESS, with this hardware's kernel and band check. -/
theorem svfProcessSelectsTheTap : Obligations.SvfProcessSelectsTheTap := by
  intro s
  simp only [exec_svfProcess, inBand_iff]
  rfl

end Sys2Proof.Machine
end

section
/-! Proofs of the family 43_delay.md: DLY_UPDATE (R102), the smoothing (R103, R109), DLY_PROCESS (R104 to R108, R110), and
which entries of the buffer a sequence of ticks stores (R104, R106, R132). -/

namespace Sys2Proof

/-! ### The parts of a delay length -/

/-- The fractional part of a delay length as a raw integer (R15, R104). -/
theorem zeroExtend_ffrac (a : FX64) : (ffrac a).zeroExtend 64 = BitVec.ofInt 64 (a.toInt % 2 ^ 32) := by
  refine BitVec.eq_of_toNat_eq ?_
  have := a.isLt
  rw [ffrac, BitVec.zeroExtend, BitVec.toNat_setWidth, BitVec.extractLsb'_toNat, BitVec.toNat_ofInt,
    BitVec.toInt_eq_toNat_cond, Nat.shiftRight_zero]
  split <;> omega

section
variable {n : Int} (h : -2 ^ 31 ≤ n) (h' : n ≤ 2 ^ 31 - 1)
include h h'

theorem ffloor_fint : ffloor (fint n) = n := by
  rw [ffloor, fint_toInt h h', Int.mul_ediv_cancel _ (by decide)]

theorem zeroExtend_ffrac_fint : (ffrac (fint n)).zeroExtend 64 = 0#64 := by
  rw [zeroExtend_ffrac, fint_toInt h h', Int.mul_emod_left]
  rfl

end

namespace Machine

/-! ### DLY_UPDATE -/

/-- The length check of this hardware in raw integers (R102, R104). -/
theorem delayInRange_iff (d : FX64) : delayInRange Config.params d = true ↔ 0 ≤ d.toInt ∧ d.toInt < 120000 * 2 ^ 32 := by
  rw [delayInRange, decide_eq_true_eq, capLength_toInt]

/-- The gain check in raw integers (R102). -/
theorem gainInRange_iff (g : FX64) : gainInRange g = true ↔ 0 ≤ g.toInt ∧ g.toInt ≤ 2 ^ 32 := by
  rw [gainInRange, decide_eq_true_eq, one_toInt]

/-- Settles O23: DelayUpdate in closed form, with this hardware's range checks. -/
theorem delayUpdateSetsTargetAndGain : Obligations.DelayUpdateSetsTargetAndGain := by
  intro s
  rw [exec_eq, execFor, delayUpdate_eq]
  simp only [delayInRange_iff, gainInRange_iff]
  rfl

/-! ### The smoothing -/

/-- One smoothing step in integers, where tgt − cur does not saturate: the sum lies between the two lengths, so it does
not saturate either (R103, R109). -/
theorem smooth_toInt {cur tgt : FX64} (hl : -2 ^ 63 ≤ tgt.toInt - cur.toInt) (hu : tgt.toInt - cur.toInt < 2 ^ 63) :
    (smooth Config.params cur tgt).toInt = cur.toInt + (tgt.toInt - cur.toInt) * 858993 / 2 ^ 32 := by
  have hsub : (fsub tgt cur).toInt = tgt.toInt - cur.toInt := sat_toInt_of_bounds hl (by omega)
  have hrate : Config.params.smoothRate.toInt = 858993 := by decide
  have hcur := And.intro (toInt_lower cur) (toInt_upper cur)
  have htgt := And.intro (toInt_lower tgt) (toInt_upper tgt)
  rw [smooth, fadd_toInt, fmul_toInt, hsub, hrate]
  omega

/-- Settles O24: the step is ⌊D × 858993 / 2^32⌋, and 5000 is the largest D with D × 858993 < 2^32. -/
theorem smoothingNeverOvershoots : Obligations.SmoothingNeverOvershoots := by
  intro cur tgt
  dsimp only
  intro hl hu
  rw [smooth_toInt hl hu]
  generalize tgt.toInt - cur.toInt = d
  refine ⟨by omega, fun hrise => ⟨by omega, by omega, ?_⟩, fun hfall => by omega, fun hzero => by omega⟩
  constructor <;> intro <;> omega

/-! ### DLY_PROCESS -/

/-- DLY_PROCESS in closed form: the delay line, the integrators, RES0, RES1 and the violation record are all that it
changes (R108, R112). -/
theorem exec_dlyProcess (s : State) :
    let r := delayTap Config.params (delaySmooth Config.params s)
    exec .dlyProcess s = .next { s with
      dly := { s.dly with
        cur := smooth Config.params s.dly.cur s.dly.tgt
        buf := s.dly.buf.write s.dly.w (fadd (fmul s.dly.fb (selectedTap Config.params r s)) s.regs.arg0)
        w := (s.dly.w + 1) % Config.params.cap }
      svf := { s.svf with s1 := (filterOut Config.params r s).s1, s2 := (filterOut Config.params r s).s2 }
      regs := { s.regs with
        res0 := delayMix s.dly.fb (selectedTap Config.params r s) s.regs.arg0
        res1 := selectedTap Config.params r s }
      viol := s.viol
        ++ (if delayInRange Config.params (smooth Config.params s.dly.cur s.dly.tgt) then [] else [.dlenRange])
        ++ (if inBand Config.params s.svf.fc then [] else [.fcRange]) } := by
  rw [exec_eq, execFor, dlyProcessCmd, delayProcess_eq]
  rfl

/-- The interpolated read in integers, on this hardware (R104). -/
theorem delayTap_eq (s : State) :
    let a := s.dly.buf.read (((s.dly.w : Int) - s.dly.cur.toInt / 2 ^ 32) % 120000).toNat
    let b := s.dly.buf.read (((s.dly.w : Int) - s.dly.cur.toInt / 2 ^ 32 - 1) % 120000).toNat
    delayTap Config.params s = fadd a (fmul (BitVec.ofInt 64 (s.dly.cur.toInt % 2 ^ 32)) (fsub b a)) := by
  rw [delayTap, zeroExtend_ffrac]
  simp only [State.readDbuf, ffloor, cap_eq]
  rfl

/-- Settles O25: the closed form of DLY_PROCESS, with this hardware's smoothing rate, capacity, kernel and checks. -/
theorem delayProcessRunsTheFiveSteps : Obligations.DelayProcessRunsTheFiveSteps := by
  intro s
  simp only [exec_dlyProcess, delayTap_eq, delayInRange_iff, inBand_iff, cap_eq]
  rfl

/-- Gain 0 passes the input through (R110). -/
theorem delayMix_zero (fr inp : FX64) : delayMix 0#64 fr inp = inp := by
  have hdry : fsub ONE 0#64 = ONE := by decide
  rw [delayMix, hdry, fmul_zero_left, fadd_zero_left, fmul_one_left]

/-- Gain ONE gives the filtered read (R110). -/
theorem delayMix_one (fr inp : FX64) : delayMix ONE fr inp = fr := by
  have hdry : fsub ONE ONE = 0#64 := by decide
  rw [delayMix, hdry, fmul_zero_left, fadd_zero_right, fmul_one_left]

/-- Settles O27: the entry written is read back, and `fb × fr` is 0 at gain 0 and fr at gain ONE. -/
theorem gainSelectsDryOrWet : Obligations.GainSelectsDryOrWet := by
  intro s hwf
  refine ⟨_, exec_dlyProcess s, fun hfb => ⟨?_, ?_⟩, fun hfb => ⟨?_, ?_⟩⟩
  · simp only [hfb]
    exact delayMix_zero _ _
  · simp only [Memory.read_write hwf, if_true, hfb]
    exact (congrArg (fadd · s.regs.arg0) (fmul_zero_left _)).trans (fadd_zero_left _)
  · simp only [hfb]
    exact delayMix_one _ _
  · simp only [Memory.read_write hwf, if_true, hfb, fmul_one_left]

/-! ### The entries that a sequence of ticks stores -/

/-- The delay line `d'` is `d` after `n` stores: the write index is n entries on, modulo CAP, and no other entry than
those n has changed (R106). -/
structure Delay.AfterStores (P : Params) (n : Nat) (d d' : Delay) : Prop where
  wf : d'.buf.wf
  writeIndex : d'.w = (d.w + n) % P.cap
  read_eq : ∀ j, (∀ k < n, j ≠ (d.w + k) % P.cap) → d'.buf.read j = d.buf.read j

section
variable {P : Params} {n : Nat} {d d' d'' : Delay}

/-- No store: the buffer and the write index are the same. -/
theorem Delay.AfterStores.zero (hwf : d.buf.wf) (hlt : d.w < P.cap) (hbuf : d'.buf = d.buf) (hw : d'.w = d.w) :
    d.AfterStores P 0 d' where
  wf := by rw [hbuf]; exact hwf
  writeIndex := by rw [hw]; exact (Nat.mod_eq_of_lt hlt).symm
  read_eq j _ := by rw [hbuf]

/-- One more store, at the write index, which then advances (R106). -/
theorem Delay.AfterStores.succ (h : d.AfterStores P n d') {v : FX64} (hbuf : d''.buf = d'.buf.write d'.w v)
    (hw : d''.w = (d'.w + 1) % P.cap) : d.AfterStores P (n + 1) d'' where
  wf := hbuf ▸ Memory.write_wf h.wf _ _
  writeIndex := by rw [hw, h.writeIndex, Nat.mod_add_mod, Nat.add_assoc]
  read_eq j hj := by
    have hlast : j ≠ d'.w := h.writeIndex ▸ hj n n.lt_succ_self
    rw [hbuf, Memory.read_write h.wf, if_neg hlast]
    exact h.read_eq j fun k hk => hj k (Nat.lt_succ_of_lt hk)

/-- A sample tick stores once, through its DelayProcess (R126). -/
theorem sampleTick_afterStores {s : State} (h : d.AfterStores P n s.dly) :
    d.AfterStores P (n + 1) (sampleTick P s).1.dly := by
  have hdly := congrArg (fun r => r.1.dly) (sampleTick_eq P s)
  dsimp only at hdly
  rw [hdly, delayProcess_dly]
  exact h.succ rfl rfl

/-- A block stores once a tick; its control update keeps the buffer and the write index (R132). -/
theorem blockCmd_afterStores {s : State} (hwf : s.dly.buf.wf) (hlt : s.dly.w < P.cap) (n : Nat) :
    s.dly.AfterStores P n (blockCmd P n s).dly := by
  have hticks : s.dly.AfterStores P n (runTicks P (ctrlUpdate P s) n).1.dly := by
    induction n with
    | zero => exact .zero hwf hlt (by rw [runTicks, ctrlUpdate_eq]) (by rw [runTicks, ctrlUpdate_eq])
    | succ n ih =>
      rw [runTicks_succ, blockTick, writeOutbuf_dly]
      exact sampleTick_afterStores ih
  unfold blockCmd
  dsimp only
  split
  · rw [setOut_dly]; exact hticks
  · exact hticks

end

/-- Settles O42, by the stores of the block's n ticks. -/
theorem blockStoresOnlyItsOwnEntries : Obligations.BlockStoresOnlyItsOwnEntries := by
  intro n s t _ hwf hlt hexec
  rw [exec_eq, Host.Outcome.next.injEq] at hexec
  have hstores := blockCmd_afterStores hwf hlt n.toNat
  have ht : blockCmd Config.params n.toNat s = t := hexec
  rw [ht] at hstores
  exact ⟨hstores.writeIndex, hstores.read_eq⟩

/-! ### An integer delay -/

/-- Each of a list of writes stores once (R106). -/
theorem foldl_delayWrite_afterStores {P : Params} {s : State} (hwf : s.dly.buf.wf) (hlt : s.dly.w < P.cap)
    (l : List (FX64 × FX64)) :
    s.dly.AfterStores P l.length (l.foldl (fun u p => delayWrite P p.1 p.2 u) s).dly := by
  induction l using List.reverseRecOn with
  | nil => exact .zero hwf hlt rfl rfl
  | append_singleton l p ih =>
    rw [List.foldl_append, List.length_append]
    exact ih.succ rfl rfl

/-- A delay of exactly k samples reads one entry, without interpolation (R104). -/
theorem delayTap_of_integer {s : State} {k : Nat} (hk : k ≤ 2 ^ 31 - 1) (hcur : s.dly.cur = fint k) (P : Params) :
    delayTap P s = s.readDbuf P (s.dly.w - k) := by
  rw [delayTap, hcur, ffloor_fint (by omega) (by omega), zeroExtend_ffrac_fint (by omega) (by omega)]
  simp only [fmul_zero_left, fadd_zero_right]

/-- Settles O28: the entry k behind the write index is the one of the first write, and the k − 1 later ones, at most
CAP − 2, do not come round to it. -/
theorem integerDelayReadsTheValueWritten : Obligations.IntegerDelayReadsTheValueWritten := by
  intro s fr inp later hwf hlt hlen
  have hstores := foldl_delayWrite_afterStores (P := Config.params) (s := delayWrite Config.params fr inp s)
    (Memory.write_wf hwf _ _) (Nat.mod_lt _ (cap_pos _)) later
  have hfirst : (delayWrite Config.params fr inp s).dly.buf.read s.dly.w = fadd (fmul s.dly.fb fr) inp :=
    (Memory.read_write hwf _ _ _).trans (if_pos rfl)
  have hw : (delayWrite Config.params fr inp s).dly.w = (s.dly.w + 1) % Config.params.cap := rfl
  dsimp only
  generalize later.foldl _ _ = t at hstores ⊢
  obtain ⟨-, hindex, hread⟩ := hstores
  intro hcur
  rw [hw] at hindex hread
  rw [cap_eq] at hlt hlen hindex hread
  have hlater : ∀ k < later.length, s.dly.w ≠ ((s.dly.w + 1) % 120000 + k) % 120000 := by omega
  have hbehind : (((t.dly.w : Int) - (later.length + 1 : Nat)) % (120000 : Nat)).toNat = s.dly.w := by omega
  rw [delayTap_of_integer (k := later.length + 1) (by omega) hcur, State.readDbuf, cap_eq, hbehind,
    hread s.dly.w hlater, hfirst]

end Machine
end Sys2Proof
end

section
/-! Proofs of the family 44_control.md: the volume trim (R116, R119, R121), the display (R117), and the control update
(R113 to R115, R118 to R120). -/

namespace Sys2Proof

namespace Machine

/-! ### The volume -/

/-- The volume after a 16-bit increment, on this hardware: the product with VOL_STEP is exact (R116). -/
theorem volumeAfter_eq (n : BitVec 16) (v : FX64) :
    volumeAfter Config.params n.toInt v = fclamp (fadd v (sat (214748365 * n.toInt))) 0 ONE := by
  have hstep : Config.params.volStep.toInt = 214748365 := by decide
  have hlo := BitVec.le_toInt n
  have hhi := BitVec.toInt_lt (x := n)
  rw [volumeAfter, fmul_fint _ (by omega) (by omega), hstep]

/-- Of the 16-bit increments only the bits of 1 denote +1 (R116). -/
theorem increment_toInt_eq_one (n : BitVec 16) : n.toInt = 1 ↔ n = 1 :=
  BitVec.toInt_inj (y := 1#16)

theorem fclamp_of_lt {a lo : FX64} (h : a.toInt < lo.toInt) (hi : FX64) : fclamp a lo hi = lo :=
  if_pos h

theorem fclamp_of_ge {a lo hi : FX64} (hle : lo.toInt ≤ hi.toInt) (h : hi.toInt ≤ a.toInt) : fclamp a lo hi = hi := by
  unfold fclamp
  split_ifs
  · omega
  · rfl
  · exact BitVec.eq_of_toInt_eq (by omega)

/-- Settles O29: the trim with an exact product; 100 steps are a little more than ONE, so they cross the whole range. -/
theorem encApplyStepsTheVolume : Obligations.EncApplyStepsTheVolume := by
  intro n s
  dsimp only
  refine ⟨?_, fun h0 h1 => ⟨?_, ?_⟩⟩
  · rw [exec_eq, execFor, immIncrement, volumeStep, volumeAfter_eq]
    simp only [increment_toInt_eq_one]
  · rintro rfl
    have hstep : (sat (214748365 * (100 : BitVec 16).toInt)).toInt = 21474836500 := by decide
    refine fclamp_of_ge (by decide) ?_
    rw [fadd_toInt, hstep, one_toInt]
    omega
  · rintro rfl
    have hstep : (sat (214748365 * (-100 : BitVec 16).toInt)).toInt = -21474836500 := by decide
    refine fclamp_of_lt ?_ ONE
    rw [fadd_toInt, hstep]
    show _ < (0 : Int)
    omega

/-! ### The display -/

/-- The brightness of a partial segment in raw integers (R117). -/
theorem ffrac_shift (a : FX64) : ffrac a >>> 16 = BitVec.ofInt 32 (a.toInt % 2 ^ 32 / 2 ^ 16) := by
  have hfrac := congrArg BitVec.toNat (zeroExtend_ffrac a)
  rw [BitVec.zeroExtend, BitVec.toNat_setWidth, BitVec.toNat_ofInt] at hfrac
  refine BitVec.eq_of_toNat_eq ?_
  rw [BitVec.toNat_ushiftRight, Nat.shiftRight_eq_div_pow, BitVec.toNat_ofInt]
  omega

/-- Segment k of the display, by the whole part and the fraction of 8 × v (R117). -/
theorem display_getElem (v : FX64) (k : Fin Config.nseg) :
    (display v)[k] = segmentLevel (ffloor (fmul v (fint 8))) (ffrac (fmul v (fint 8))) k :=
  Vector.getElem_ofFn k.isLt

/-- Settles O30: 8 × v does not saturate, its whole part counts the segment widths in v, and its fraction is what is left
of v, scaled by 8. -/
theorem displayShowsTheVolume : Obligations.DisplayShowsTheVolume := by
  intro v k h0 h1
  have hwidth : Config.segW.toInt = 2 ^ 29 := by decide
  have hv8 : (fmul v (fint 8)).toInt = v.toInt * 8 := by
    rw [fmul_fint _ (by decide) (by decide), sat_toInt_of_bounds (by omega) (by omega)]
  rw [display_getElem, segmentLevel, ffloor, ffrac_shift, hv8, hwidth]
  by_cases hfull : (k + 1) * 2 ^ 29 ≤ v.toInt
  · rw [if_pos (by omega), if_pos hfull]
  rw [if_neg (by omega), if_neg hfull]
  by_cases hpartial : k * 2 ^ 29 ≤ v.toInt
  · rw [if_pos (by omega), if_pos hpartial]
    congr 1
    omega
  · rw [if_neg (by omega), if_neg hpartial]

/-! ### The control update -/

/-- A knob's reading as a number (R20, R113). -/
theorem knob_eq (s : State) (i : Fin Config.nslot) :
    s.knob i = BitVec.ofNat 64 (s.cf.knobs[i].toNat * 2 ^ 16) := by
  refine BitVec.eq_of_toNat_eq ?_
  simp [State.knob, widenReading, Nat.shiftLeft_eq]

/-- Settles O31: the closed form of the control update, with this hardware's volume step and range checks. -/
theorem ctrlUpdatePushesTheFrame : Obligations.CtrlUpdatePushesTheFrame := by
  intro s
  rw [exec_eq, execFor, ctrlUpdate_eq]
  simp only [volumeAfter_eq, increment_toInt_eq_one, delayInRange_iff, gainInRange_iff, State.mapped, Slot.value, knob_eq]
  rfl

/-- What the slots map to depends only on the control frame, the configuration and the draw counter (R119). -/
theorem mapped_congr (K : Kernels) {s s' : State} (hcf : s'.cf = s.cf) (hcfg : s'.cfg = s.cfg)
    (hdraws : s'.draws = s.draws) : s'.mapped K = s.mapped K := by
  funext i
  simp only [State.mapped, State.drawnSlots, State.slot, State.knob, hcf, hcfg, hdraws]

/-- Settles O32: in the closed form of the control update, all that it sets but the volume is read from CF_SWITCH or is a
slot's mapped value. -/
theorem controlDependsOnlyOnFrameAndConfig : Obligations.ControlDependsOnlyOnFrameAndConfig := by
  intro s s' hcf hcfg hdraws
  have hmapped := mapped_congr Config.kernels hcf hcfg hdraws
  refine ⟨_, _, exec_eq .ctrlUpdate s, exec_eq .ctrlUpdate s', ?_⟩
  simp only [execFor, ctrlUpdate_eq, hcf, hmapped, and_self]

end Machine
end Sys2Proof
end

section
/-! Proofs of the family 45_engine.md: the engine's step (R122, R123), NOP and RESET (R129, R130), the sample tick (R126,
R131) and the block (R128, R132). -/

namespace Sys2Proof

namespace Machine

/-! ### The step -/

/-- A write to COMMAND is the host's write of a command word (R122). -/
theorem hostWrite_command (w : Word) (s : State) : s.hostWrite Config.params 0x010#13 w = s.writeCommand w :=
  hostWrite_addr (.word .command) w s

/-- Settles O51: the two cases of the pending command. -/
theorem commandWriteIsAcceptedOrDropped : Obligations.CommandWriteIsAcceptedOrDropped := by
  intro s w
  rw [hostWrite_command]
  unfold State.writeCommand
  split
  next hp => exact ⟨fun _ => rfl, fun h => absurd hp h⟩
  next hp => exact ⟨fun h => by simp [h] at hp, fun _ => rfl⟩

/-- With a command pending, the engine moves when the host is not enabled or not picked (R123). -/
theorem engineMoves_of_pend {s : State} {w : Word} (hp : s.pend = some w)
    (h : s.hostEnabled = false ∨ s.sched.head? ≠ some .host) : s.engineMoves = true := by
  have hbusy : s.busy = true := by rw [State.busy, hp]; rfl
  rw [State.engineMoves, hbusy]
  rcases h with h | h
  · rw [h]; rfl
  · rw [bne_iff_ne.2 h, Bool.or_true]; rfl

/-- Settles O5: the engine's step on a word that decodes is `exec`, then IDLE. -/
theorem stepExecutesPendingCommand : Obligations.StepExecutesPendingCommand := by
  intro s t w i hp hdecode hmoves hexec
  have hm := engineMoves_of_pend hp hmoves
  simp only [step, hp, hm, if_true, engineStep, hdecode, hexec]
  rfl

/-- A command word given by its number is that word (R66). -/
theorem tableWord_toNat (w : Word) : tableWord 32 w.toNat = w := by
  rw [tableWord, Nat.mod_eq_of_lt w.isLt, BitVec.ofNat_toNat, BitVec.setWidth_eq]

/-- Settles O7: the stored word is the command's encoding, and the pick stored with it is the engine. -/
theorem fetchedWordRunsNext : Obligations.FetchedWordRunsNext := by
  intro s t i hi hexec
  rw [State.withFetchWord, tableWord_toNat]
  exact step_pending hi rfl nofun hexec

/-! ### NOP and RESET -/

/-- Settles O33: `exec` of the two commands, with this hardware's seeds and reset volume, which the display shows as 0. -/
theorem nopAndResetEffects : Obligations.NopAndResetEffects := by
  intro s
  have hdark : display Config.params.volReset = Vector.replicate 8 0 := by decide
  refine ⟨exec_eq .nop s, ?_⟩
  rw [exec_eq, execFor, resetDatapath, hdark]

/-! ### The sample tick -/

section
variable (P : Params) (s : State)

/-- SAMPLE in closed form: the LFO, the oscillator, the delay line, the integrators, the results and the violation record
are all that it changes (R126, R131). -/
theorem sampleCmd_eq :
    let f := fadd s.snap.baseFreq (tickLfo P s)
    let r := delayTap P (delaySmooth P s)
    let fr := selectedTap P r s
    let d := delayMix s.dly.fb fr (tickInput s)
    let y := fmul d s.snap.volume
    sampleCmd P s = { s with
      lfo := { s.lfo with phase := phadv P s.lfo.phase s.lfo.freq }
      osc := { s.osc with freq := f, phase := phadv P s.osc.phase f }
      dly := { s.dly with
        cur := smooth P s.dly.cur s.dly.tgt
        buf := s.dly.buf.write s.dly.w (fadd (fmul s.dly.fb fr) (tickInput s))
        w := (s.dly.w + 1) % P.cap }
      svf := { s.svf with s1 := (filterOut P r s).s1, s2 := (filterOut P r s).s2 }
      regs := { s.regs with res0 := y, res1 := d, outL := y, outR := y }
      viol := s.viol ++ (if inBand P s.lfo.freq then [] else [.freqRange])
        ++ (if inBand P f then [] else [.freqRange])
        ++ (if delayInRange P (smooth P s.dly.cur s.dly.tgt) then [] else [.dlenRange])
        ++ (if inBand P s.svf.fc then [] else [.fcRange]) } := by
  rw [sampleCmd, sampleTick_eq, delayProcess_eq]
  rfl

/-- The signal before the volume is the delay line's mix of the gated sample (R107, R126). -/
theorem sampleTick_d : ∃ fr, (sampleTick P s).2.2 = delayMix s.dly.fb fr (tickInput s) := by
  rw [sampleTick_eq]
  exact ⟨_, delayProcess_out P _ _⟩

/-- A tick neither reads nor writes the operand registers (R126). -/
theorem sampleTick_with_regs (regs : OperandRegs) :
    sampleTick P { s with regs := regs } = ({ (sampleTick P s).1 with regs := regs }, (sampleTick P s).2) := by
  rw [sampleTick_eq, sampleTick_eq, delayProcess_eq, delayProcess_eq]
  rfl

end

/-- Settles O36: the closed form of SAMPLE, with this hardware's parameters. -/
theorem sampleRunsOneTick : Obligations.SampleRunsOneTick := by
  intro s
  rw [exec_eq, execFor, sampleCmd_eq, tickInput]
  simp only [Bool.or_eq_true]
  rfl

/-- Settles O37: after RESET both units stand at frequency 0 and the gain and the volume are 0, so that the gated sample,
0, passes the delay line dry. -/
theorem sampleAfterResetIsSilent : Obligations.SampleAfterResetIsSilent := by
  intro s
  have hphase : phadv Config.params 0 0 = 0 := by decide
  have hband : inBand Config.params 0#64 = false := by decide
  have hdelay : delayInRange Config.params (smooth Config.params 0#64 0#64) = true := by decide
  have hd (fr : FX64) : delayMix 0 fr 0 = 0 := delayMix_zero fr 0
  refine ⟨_, _, exec_eq .reset s, exec_eq .sample _, ?_⟩
  simp only [execFor, sampleCmd_eq]
  refine ⟨fmul_zero_right _, hd _, fmul_zero_right _, fmul_zero_right _, ?_, rfl,
    (congrArg (phadv _ _) (fadd_zero_left _)).trans hphase, hphase⟩
  simp [resetDatapath, tickLfo, hband, hdelay]

/-! ### The block -/

section
variable {P : Params} {s : State} {n : Nat}

/-- A read of OUTBUF sees OUTBUF alone (R46). -/
theorem readOutbuf_congr {t : State} (h : t.outbuf = s.outbuf) (k c : Nat) : t.readOutbuf k c = s.readOutbuf k c := by
  rw [State.readOutbuf, h, State.readOutbuf]

/-- The ticks keep the canonical form of OUTBUF (R132). -/
theorem runTicks_outbuf_wf (h : s.outbuf.wf) : (runTicks P s n).1.outbuf.wf := by
  induction n with
  | zero => exact h
  | succ n ih =>
    rw [runTicks_succ, blockTick, writeOutbuf_outbuf, sampleTick_outbuf]
    exact Memory.write_wf (Memory.write_wf ih _ _) _ _

/-- After n ticks entry k of OUTBUF, in both channels, is what tick k gave if there was one, and else what it was (R132). -/
theorem readOutbuf_runTicks (h : s.outbuf.wf) (k : Nat) {c : Nat} (hc : c < 2) :
    (runTicks P s n).1.readOutbuf k c = if k < n then (runTicks P s (k + 1)).2 else s.readOutbuf k c := by
  induction n with
  | zero => rfl
  | succ n ih =>
    have hwf : (sampleTick P (runTicks P s n).1).1.outbuf.wf := by
      rw [sampleTick_outbuf]; exact runTicks_outbuf_wf h
    have hlast : (runTicks P s (n + 1)).1.readOutbuf k c =
        if k = n then (runTicks P s (n + 1)).2 else (runTicks P s n).1.readOutbuf k c := by
      rw [runTicks_succ, blockTick, readOutbuf_writeOutbuf hwf _ _ _ hc, readOutbuf_congr (sampleTick_outbuf _ _)]
    rw [hlast, ih]
    rcases lt_trichotomy k n with hk | rfl | hk
    · rw [if_neg hk.ne, if_pos hk, if_pos (by omega)]
    · rw [if_pos rfl, if_pos k.lt_succ_self]
    · rw [if_neg hk.ne', if_neg (by omega), if_neg (by omega)]

variable (P s n)

/-- BLOCK n is its n ticks after the control update, but for the output registers (R132). -/
theorem blockCmd_eq : blockCmd P n s = { (runTicks P (ctrlUpdate P s) n).1 with
    regs := if 0 < n then
      { s.regs with outL := (runTicks P (ctrlUpdate P s) n).2, outR := (runTicks P (ctrlUpdate P s) n).2 }
      else s.regs } := by
  have hregs : (runTicks P (ctrlUpdate P s) n).1.regs = s.regs := by rw [runTicks_regs, ctrlUpdate_regs]
  rw [← hregs, blockCmd]
  split <;> rfl

variable {P s n}

theorem blockCmd_outbuf_wf (h : s.outbuf.wf) : (blockCmd P n s).outbuf.wf := by
  rw [blockCmd_eq]
  exact runTicks_outbuf_wf (by rw [ctrlUpdate_outbuf]; exact h)

/-- What BLOCK n leaves in OUTBUF (R132). -/
theorem readOutbuf_blockCmd (h : s.outbuf.wf) (k : Nat) {c : Nat} (hc : c < 2) :
    (blockCmd P n s).readOutbuf k c =
      if k < n then (runTicks P (ctrlUpdate P s) (k + 1)).2 else s.readOutbuf k c := by
  have hwf : (ctrlUpdate P s).outbuf.wf := by rw [ctrlUpdate_outbuf]; exact h
  rw [blockCmd_eq, ← readOutbuf_congr (ctrlUpdate_outbuf P s)]
  exact readOutbuf_runTicks hwf k hc

end

/-- The ticks keep the oscillator's amplitude (R126). -/
theorem runTicks_osc_amp (P : Params) (s : State) (n : Nat) : (runTicks P s n).1.osc.amp = s.osc.amp := by
  induction n with
  | zero => rfl
  | succ n ih => rw [runTicks_succ, blockTick, writeOutbuf_osc, sampleTick_osc]; exact ih

/-- Settles O38: both channels of entry k are the result of tick k. -/
theorem blockFillsTheOutputBuffer : Obligations.BlockFillsTheOutputBuffer := by
  intro n s _ hwf
  have hfilled {k c : Nat} (hk : k < n.toNat) (hc : c < 2) : (blockCmd Config.params n.toNat s).readOutbuf k c =
      (runTicks Config.params (ctrlUpdate Config.params s) (k + 1)).2 := by
    rw [readOutbuf_blockCmd hwf k hc, if_pos hk]
  refine ⟨blockCmd Config.params n.toNat s, exec_eq (.block n) s, ?_, fun k hk => ?_, fun k c hk hc => ?_,
    fun hn => ?_, ?_, ?_, ?_⟩
  · rintro rfl; exact exec_eq .ctrlUpdate s
  · rw [hfilled hk (by decide), hfilled hk (by decide)]
  · rw [readOutbuf_blockCmd hwf k hc, if_neg (Nat.not_lt.2 hk)]
  · rw [hfilled (by omega) (by decide), Nat.sub_add_cancel hn, blockCmd_eq, if_pos hn]
  · rintro rfl; exact ctrlUpdate_regs _ s
  · rw [blockCmd_eq, runTicks_err, ctrlUpdate_err]
  · rw [blockCmd_eq, runTicks_osc_amp, ctrlUpdate_osc]

/-- SAMPLE after BLOCK n is the tick after the block's n ticks, with its results written (R131, R132). -/
theorem sampleCmd_blockCmd (P : Params) (s : State) (n : Nat) :
    let r := sampleTick P (runTicks P (ctrlUpdate P s) n).1
    sampleCmd P (blockCmd P n s) = { r.1 with
      regs := { s.regs with res0 := r.2.1, res1 := r.2.2, outL := r.2.1, outR := r.2.1 } } := by
  dsimp only
  rw [sampleCmd, blockCmd_eq, sampleTick_with_regs]
  generalize sampleTick P (runTicks P (ctrlUpdate P s) n).1 = r
  generalize (runTicks P (ctrlUpdate P s) n).2 = y
  split <;> rfl

section
variable {P : Params} {s v : State} {n : Nat}

/-- BLOCK n + 1 is BLOCK n, then a SAMPLE whose output goes to OUTBUF[n] and which leaves RES0 and RES1 alone (R126,
R132). -/
theorem blockCmd_succ (hv : sampleCmd P (blockCmd P n s) = v) :
    blockCmd P (n + 1) s = { v.writeOutbuf n v.regs.outL with
      regs := { s.regs with outL := v.regs.outL, outR := v.regs.outL } } := by
  rw [← hv, sampleCmd_blockCmd, blockCmd_eq, if_pos n.succ_pos, runTicks_succ, blockTick]
  generalize sampleTick P (runTicks P (ctrlUpdate P s) n).1 = r
  rfl

/-- That SAMPLE's output is entry n of OUTBUF, and the other entries are those of BLOCK n (R132). -/
theorem readOutbuf_blockCmd_succ (h : s.outbuf.wf) (hv : sampleCmd P (blockCmd P n s) = v) (k : Nat) {c : Nat}
    (hc : c < 2) : (blockCmd P (n + 1) s).readOutbuf k c =
      if k = n then v.regs.outL else (blockCmd P n s).readOutbuf k c := by
  have hout : v.outbuf = (blockCmd P n s).outbuf := by
    rw [← hv, sampleCmd, setRes1_outbuf, setRes0_outbuf, setOut_outbuf, sampleTick_outbuf]
  have hwf : v.outbuf.wf := by rw [hout]; exact blockCmd_outbuf_wf h
  rw [blockCmd_succ hv, ← readOutbuf_congr hout]
  exact readOutbuf_writeOutbuf hwf n _ k hc

end

/-- Settles O39: BLOCK n + 1 is BLOCK n, then a SAMPLE whose output goes to OUTBUF[n]. -/
theorem blockIsOneMoreTick : Obligations.BlockIsOneMoreTick := by
  intro n s hn hwf
  have hsize (m : Nat) (hm : m ≤ 256) : immSize (BitVec.ofNat 16 m) = m := Nat.mod_eq_of_lt (by omega)
  refine ⟨_, _, _, exec_eq _ s, exec_eq _ s, exec_eq .sample _, ?_⟩
  simp only [execFor, hsize n (by omega), hsize (n + 1) (by omega)]
  generalize hv : sampleCmd Config.params (blockCmd Config.params n s) = v
  have hread (k : Nat) {c : Nat} (hc : c < 2) := readOutbuf_blockCmd_succ hwf hv k hc
  have hequal : v.regs.outL = v.regs.outR := by rw [← hv]; rfl
  refine ⟨?_, ?_, ?_, ?_, ?_, ?_, ?_, ?_, fun k c hk hc => ?_⟩
  · rw [hread n (by decide), if_pos rfl]
  · rw [hread n (by decide), if_pos rfl, hequal]
  · rw [blockCmd_succ hv]
  · rw [blockCmd_succ hv, writeOutbuf_osc]
  · rw [blockCmd_succ hv, writeOutbuf_lfo]
  · rw [blockCmd_succ hv, writeOutbuf_svf]
  · rw [blockCmd_succ hv, writeOutbuf_dly]
  · rw [blockCmd_succ hv, writeOutbuf_viol]
  · rw [hread k hc, if_neg hk]

/-- What the control update pushes to the units (R118). -/
def State.pushed (s : State) : FX64 × FX64 × FX64 × FilterMode × FX64 × FX64 :=
  (s.lfo.freq, s.lfo.amp, s.svf.fc, s.svf.mode, s.dly.tgt, s.dly.fb)

theorem writeOutbuf_pushed (k : Nat) (y : FX64) (s : State) : (s.writeOutbuf k y).pushed = s.pushed := rfl

theorem sampleTick_pushed (P : Params) (s : State) : (sampleTick P s).1.pushed = s.pushed := by
  simp only [State.pushed, sampleTick_eq, delayProcess_eq]

/-- No tick changes what the control update pushed (R126, R132). -/
theorem runTicks_pushed (P : Params) (s : State) (n : Nat) : (runTicks P s n).1.pushed = s.pushed := by
  induction n with
  | zero => rfl
  | succ n ih => rw [runTicks_succ, blockTick, writeOutbuf_pushed, sampleTick_pushed, ih]

/-- Settles O40: the ticks keep the snapshot and the other fields that the control update sets. -/
theorem snapshotIsConstantInABlock : Obligations.SnapshotIsConstantInABlock := by
  intro n s _
  have hpushed := runTicks_pushed Config.params (ctrlUpdate Config.params s) n.toNat
  simp only [State.pushed, Prod.mk.injEq] at hpushed
  refine ⟨_, _, exec_eq (.block n) s, exec_eq .ctrlUpdate s, ?_⟩
  simp only [execFor, blockCmd_eq, immSize, runTicks_snap, runTicks_cf, runTicks_disp, runTicks_ack, runTicks_draws,
    hpushed, and_self]

/-- A tick with both modes off and gain 0 passes the gated sample, 0, dry (R128). -/
theorem sampleTick_gated (P : Params) {s : State} (hregular : s.snap.regular = false) (hlfo : s.snap.lfo = false)
    (hfb : s.dly.fb = 0) : (sampleTick P s).2.1 = 0 := by
  obtain ⟨fr, hd⟩ := sampleTick_d P s
  have hinput : tickInput s = 0 := by rw [tickInput, hregular, hlfo]; rfl
  rw [sampleTick_y, hd, hfb, hinput]
  exact (congrArg (fmul · _) (delayMix_zero fr 0)).trans (fmul_zero_left _)

/-- Settles O41: the gate and the gain that the control update sets hold for every tick. -/
theorem gatedBlockIsSilent : Obligations.GatedBlockIsSilent := by
  intro n s u _ hwf hregular hlfo hupdate hfb
  rw [exec_eq, Host.Outcome.next.injEq] at hupdate
  subst hupdate
  have hzero (k : Nat) : (runTicks Config.params (ctrlUpdate Config.params s) (k + 1)).2 = 0 := by
    have hpushed := runTicks_pushed Config.params (ctrlUpdate Config.params s) k
    simp only [State.pushed, Prod.mk.injEq] at hpushed
    obtain ⟨-, -, -, -, -, hgain⟩ := hpushed
    refine sampleTick_gated _ ?_ ?_ (hgain.trans hfb)
    · rw [runTicks_snap, ctrlUpdate_eq]; exact hregular
    · rw [runTicks_snap, ctrlUpdate_eq]; exact hlfo
  refine ⟨_, exec_eq (.block n) s, fun k hk => ?_⟩
  have hread {c : Nat} (hc : c < 2) : (blockCmd Config.params n.toNat s).readOutbuf k c = 0 := by
    rw [readOutbuf_blockCmd hwf k hc, if_pos hk, hzero]
  exact ⟨hread (by decide), hread (by decide)⟩

end Machine
end Sys2Proof
end

section
/-! Proofs of the family 60_exceptions.md: the rejection of a pending word (R134) and the machine with nothing to do
(R145). -/

namespace Sys2Proof.Machine

/-- The record of a rejected word: CMD_ERR is set, and a cause and a word recorded before are kept (R36, R134). -/
theorem recordCmdError_eq (c : CmdError) (w : Word) (s : State) :
    s.recordCmdError c w = { s with
      err := { s.err with
        cmdErr := true
        cause := if s.err.cmdErr then s.err.cause else some c
        word := if s.err.cmdErr then s.err.word else w } } := by
  cases hc : s.err.cmdErr with
  | false => simp [State.recordCmdError, hc]
  | true => simp [State.recordCmdError, hc]

/-- Settles O6: the engine takes the word, records the error and goes IDLE. -/
theorem rejectedWordOnlyRecordsTheError : Obligations.RejectedWordOnlyRecordsTheError := by
  refine ⟨fun s w c hp hdecode hmoves => ?_, rfl, rfl, rfl, rfl, rfl⟩
  have hm := engineMoves_of_pend hp hmoves
  simp only [step, hp, hm, if_true, engineStep, hdecode, recordCmdError_eq]
  rfl

/-- Settles O8: an IDLE machine leaves the step to the host, and a host with no event only uses up the pick. -/
theorem idleMachineHoldsItsState : Obligations.IdleMachineHoldsItsState := by
  intro s hp hin
  have hstep : step s = hostStep Config.params s := by simp only [step, hp]
  have hhost : hostStep Config.params s = .next s.usePick := by simp only [hostStep, hin]
  exact hstep.trans hhost

end Sys2Proof.Machine
end

section
/-! Proofs of the family 70_reset_and_hazards.md: power-on reset (R146), what a RESET forgets (R147), the blocks of a
legal configuration (R149, R151), and the end of every pending command (R159). -/

namespace Sys2Proof

namespace Machine

/-! ### The maps of a legal configuration -/

/-- The conditions of LegalConfig that concern each slot alone (conditions 1 and 6 of R149). -/
structure Slot.Legal (c : Slot) : Prop where
  logPositive : c.curve = .logarithmic → 0 < c.min.toInt ∧ 0 < c.max.toInt
  noSaturation : |c.max.toInt - c.min.toInt| < 2 ^ 63

/-- `v` lies between `a` and `b`, whichever is the larger. -/
def Between (a b v : FX64) : Prop := min a.toInt b.toInt ≤ v.toInt ∧ v.toInt ≤ max a.toInt b.toInt

section
variable {c : Slot} (h : c.Legal)
include h

/-- No reading makes a legal slot draw (R78). -/
theorem drawn_eq_false_of_legal : c.drawn = false := by
  simp only [Slot.drawn, decide_eq_false_iff_not, not_and]
  intro hc
  have hends := h.logPositive hc
  omega

/-- A legal slot maps a reading in range between its two ends, on either curve (R77, R80). -/
theorem slotValue_between_of_legal (K : Kernels) {raw : FX64} (hraw : readingInRange raw = true) (d : Nat) :
    Between c.min c.max (c.value K raw d) := by
  obtain ⟨h0, h1⟩ := of_decide_eq_true hraw
  cases hc : c.curve with
  | linear =>
    obtain ⟨-, -, hlo, hhi, -⟩ := linearMapStaysInRange c.min c.max raw raw h.noSaturation h0 le_rfl h1
    simp only [Slot.value, hc, if_true]
    exact ⟨hlo, hhi⟩
  | logarithmic =>
    obtain ⟨hmn, hmx⟩ := h.logPositive hc
    simp only [Slot.value, hc, drawn_eq_false_of_legal h, reduceCtorEq, Bool.false_eq_true, if_false]
    exact K.logMid_monotonic.between hmn hmx h0 h1

end

section
variable {a b v : FX64} (h : Between a b v)
include h

theorem inBand_of_between (hends : inBand Config.params a = true ∧ inBand Config.params b = true) :
    inBand Config.params v = true := by
  obtain ⟨hlo, hhi⟩ := h
  simp only [inBand_iff] at hends ⊢
  omega

theorem delayInRange_of_between (hends : delayInRange Config.params a = true ∧ delayInRange Config.params b = true) :
    delayInRange Config.params v = true := by
  obtain ⟨hlo, hhi⟩ := h
  simp only [delayInRange_iff] at hends ⊢
  omega

theorem gainInRange_of_between (hends : gainInRange a = true ∧ gainInRange b = true) : gainInRange v = true := by
  obtain ⟨hlo, hhi⟩ := h
  simp only [gainInRange_iff] at hends ⊢
  omega

/-- The magnitude of a value between two others is at most the larger of theirs. -/
theorem absRaw_le_of_between : absRaw v ≤ max (absRaw a) (absRaw b) := by
  obtain ⟨hlo, hhi⟩ := h
  rcases le_total a.toInt b.toInt with hab | hab
  · rw [min_eq_left hab] at hlo
    rw [max_eq_right hab] at hhi
    exact abs_le_max_abs_abs hlo hhi
  · rw [min_eq_right hab] at hlo
    rw [max_eq_left hab] at hhi
    exact (abs_le_max_abs_abs hlo hhi).trans_eq (max_comm _ _)

end

section
variable {s : State} (h : s.cfg.Legal Config.params)
include h

theorem slot_legal (i : Fin Config.nslot) : (s.slot i).Legal :=
  ⟨h.logPositive i, h.noSaturation i⟩

/-- A legal configuration draws in no map (R78, R151). -/
theorem drawnSlots_of_legal : s.drawnSlots = [] :=
  List.filter_eq_nil_iff.2 fun i _ => by simp [drawn_eq_false_of_legal (slot_legal h i)]

/-- What the control update pushes from a slot lies between the slot's ends (R114, R151). -/
theorem mapped_between_of_legal (K : Kernels) (i : Fin Config.nslot) :
    Between (s.slot i).min (s.slot i).max (s.mapped K i) :=
  slotValue_between_of_legal (slot_legal h i) K (readingInRange_knob i s) _

end

/-! ### A block of a legal configuration -/

/-- A state from which a tick records no violation: the rates and lengths are legal, and so is the oscillator's
frequency wherever the LFO stands (R151). -/
structure State.TickReady (s : State) : Prop where
  lfoRate : inBand Config.params s.lfo.freq = true
  cutoff : inBand Config.params s.svf.fc = true
  delay : delayInRange Config.params s.dly.cur = true
  target : delayInRange Config.params s.dly.tgt = true
  pitchLow : 0 < s.snap.baseFreq.toInt - absRaw s.lfo.amp
  pitchHigh : s.snap.baseFreq.toInt + absRaw s.lfo.amp < Config.params.nyq

/-- A control update under LegalConfig records no violation and leaves a state ready for ticks, since each value it
pushes lies between the ends of its slot (R149, R151). -/
theorem ctrlUpdate_of_blockReady {s : State} (h : s.BlockReady Config.params) :
    (ctrlUpdate Config.params s).viol = s.viol ∧ (ctrlUpdate Config.params s).TickReady := by
  have hbetween := mapped_between_of_legal h.config Config.params.kernels
  obtain ⟨hbaseLo, hbaseHi⟩ := hbetween 2
  have hdepth := absRaw_le_of_between (hbetween 1)
  have htarget := delayInRange_of_between (hbetween 3) h.config.delayLength
  have hgain := gainInRange_of_between (hbetween 4) h.config.feedback
  rw [ctrlUpdate_eq]
  constructor
  · simp [drawnSlots_of_legal h.config, htarget, hgain]
  · exact {
      lfoRate := inBand_of_between (hbetween 0) h.config.lfoRate
      cutoff := inBand_of_between (hbetween 5) h.config.cutoff
      delay := h.delay
      target := htarget
      pitchLow := h.config.pitchLow.trans_le (sub_le_sub hbaseLo hdepth)
      pitchHigh := (add_le_add hbaseHi hdepth).trans_lt h.config.pitchHigh }

section
variable (P : Params) (s : State)

/-- What a tick records: the four checks of R86, R95 and R104, in order (R126). -/
theorem sampleTick_viol : (sampleTick P s).1.viol = s.viol ++ (if inBand P s.lfo.freq then [] else [.freqRange])
    ++ (if inBand P (fadd s.snap.baseFreq (tickLfo P s)) then [] else [.freqRange])
    ++ (if delayInRange P (smooth P s.dly.cur s.dly.tgt) then [] else [.dlenRange])
    ++ (if inBand P s.svf.fc then [] else [.fcRange]) := by
  have htick := congrArg (fun r => r.1.viol) (sampleTick_eq P s)
  dsimp only at htick
  rw [htick, delayProcess_viol]

/-- A tick smooths the current delay once (R103, R126). -/
theorem sampleTick_cur : (sampleTick P s).1.dly.cur = smooth P s.dly.cur s.dly.tgt := by
  rw [sampleTick_eq, delayProcess_eq]

/-- The LFO shifts the oscillator's frequency by at most its amplitude (R84, R126). -/
theorem abs_tickLfo_le : |(tickLfo P s).toInt| ≤ absRaw s.lfo.amp := by
  unfold tickLfo
  split
  · exact abs_fmul_toInt_le (sinCurve_range _ _) _
  · exact abs_nonneg _

end

/-- A length smoothed toward a legal target stays legal: a step never overshoots (R103, R109). -/
theorem smooth_inRange {cur tgt : FX64} (hcur : delayInRange Config.params cur = true)
    (htgt : delayInRange Config.params tgt = true) :
    delayInRange Config.params (smooth Config.params cur tgt) = true := by
  rw [delayInRange_iff] at *
  obtain ⟨-, hrise, hfall, hstay⟩ := smoothingNeverOvershoots cur tgt (by omega) (by omega)
  omega

section
variable {s : State} (h : s.TickReady)
include h

/-- The shifted frequency stays in band and does not saturate (R126, R151). -/
theorem tickPitch_inBand : inBand Config.params (fadd s.snap.baseFreq (tickLfo Config.params s)) = true := by
  obtain ⟨hlo, hhi⟩ := abs_le.1 (abs_tickLfo_le Config.params s)
  have hlow := h.pitchLow
  have hhigh := h.pitchHigh
  rw [nyq_eq] at hhigh
  rw [inBand_iff, fadd_toInt]
  omega

theorem writeOutbuf_tickReady (k : Nat) (y : FX64) : (s.writeOutbuf k y).TickReady :=
  { h with }

/-- A tick from a ready state records no violation and leaves a ready state (R151). -/
theorem sampleTick_of_tickReady :
    (sampleTick Config.params s).1.viol = s.viol ∧ (sampleTick Config.params s).1.TickReady := by
  have hcur := smooth_inRange h.delay h.target
  have hpushed := sampleTick_pushed Config.params s
  simp only [State.pushed, Prod.mk.injEq] at hpushed
  obtain ⟨hfreq, hamp, hfc, -, htgt, -⟩ := hpushed
  refine ⟨?_, ?_⟩
  · simp [sampleTick_viol, h.lfoRate, tickPitch_inBand h, hcur, h.cutoff]
  · constructor <;> simp only [hfreq, hamp, hfc, htgt, sampleTick_cur, sampleTick_snap]
    exacts [h.lfoRate, h.cutoff, hcur, h.target, h.pitchLow, h.pitchHigh]

/-- The ticks of a block from a ready state, by induction on their number (R132, R151). -/
theorem runTicks_of_tickReady (n : Nat) :
    (runTicks Config.params s n).1.viol = s.viol ∧ (runTicks Config.params s n).1.TickReady := by
  induction n with
  | zero => exact ⟨rfl, h⟩
  | succ n ih =>
    obtain ⟨hviol, hready⟩ := ih
    obtain ⟨hviol', hready'⟩ := sampleTick_of_tickReady hready
    rw [runTicks_succ, blockTick, writeOutbuf_viol]
    exact ⟨hviol'.trans hviol, writeOutbuf_tickReady hready' n _⟩

end

/-- Settles O44: the control update makes every tick ready, each tick keeps that, and no command changes the
configuration. -/
theorem legalBlocksRecordNoViolation : Obligations.LegalBlocksRecordNoViolation := by
  intro n s _ h
  obtain ⟨hviol, hready⟩ := ctrlUpdate_of_blockReady h
  obtain ⟨hviol', hready'⟩ := runTicks_of_tickReady hready n.toNat
  obtain ⟨-, hcfg⟩ := blockCmd_config Config.params s n.toNat
  refine ⟨blockCmd Config.params n.toNat s, exec_eq (.block n) s, ?_, ⟨hcfg ▸ h.config, ?_⟩⟩
  · rw [blockCmd_eq]
    exact hviol'.trans hviol
  · rw [blockCmd_eq]
    exact hready'.delay

/-! ### Power-on reset -/

/-- Settles O34: the display of VOL_RESET is dark, and every other reset value stands in the definition. -/
theorem powerOnResetReachesTheResetState : Obligations.PowerOnResetReachesTheResetState := by
  intro s
  have hdark : display Config.params.volReset = Vector.replicate Config.nseg 0 := by decide
  rw [powerOnReset, resetDatapath, hdark]
  rfl

/-! ### What a RESET forgets -/

/-- The state with the violation record, the pending command, the lock and the model's own host fields cleared. -/
def State.datapath (s : State) : State :=
  { s with pend := none, cfgLock := false, viol := [], inputs := [], sched := [], replies := [] }

/-- What no command writes of the fields that `State.datapath` clears. -/
def State.outside (s : State) : Option Word × Bool × List HostEvent × List Agent × List (Addr × Word) :=
  (s.pend, s.cfgLock, s.inputs, s.sched, s.replies)

section
variable (P : Params) (s : State)

/-- No command writes the lock, the pending command or the model's own host fields (R69). -/
theorem execFor_outside (i : Instr) : (execFor P i s).outside = s.outside := by
  have hside := execFor_hostSide P s i
  simp only [State.hostSide, Prod.mk.injEq] at hside
  obtain ⟨hpend, -, -, -, -, hreplies⟩ := hside
  obtain ⟨hlock, -⟩ := execFor_config P s i
  obtain ⟨hinputs, hsched⟩ := execFor_agenda P s i
  simp only [State.outside, hpend, hlock, hinputs, hsched, hreplies]

/-- A tick reads and writes the datapath alone (R126). -/
theorem sampleTick_datapath : (sampleTick P s).1.datapath = (sampleTick P s.datapath).1.datapath ∧
    (sampleTick P s).2 = (sampleTick P s.datapath).2 := by
  rw [sampleTick_eq, sampleTick_eq, delayProcess_eq, delayProcess_eq]
  exact ⟨rfl, rfl⟩

theorem ctrlUpdate_datapath : (ctrlUpdate P s).datapath = (ctrlUpdate P s.datapath).datapath := by
  rw [ctrlUpdate_eq, ctrlUpdate_eq]
  rfl

theorem writeOutbuf_datapath (k : Nat) (y : FX64) : (s.writeOutbuf k y).datapath = s.datapath.writeOutbuf k y := rfl

/-- Ticks from states with the same datapath give the same datapath and the same sample (R132). -/
theorem runTicks_congr_datapath {s s' : State} (h : s'.datapath = s.datapath) (n : Nat) :
    (runTicks P s' n).1.datapath = (runTicks P s n).1.datapath ∧ (runTicks P s' n).2 = (runTicks P s n).2 := by
  induction n with
  | zero => exact ⟨h, rfl⟩
  | succ n ih =>
    obtain ⟨hstate, hout⟩ := sampleTick_datapath P (runTicks P s n).1
    obtain ⟨hstate', hout'⟩ := sampleTick_datapath P (runTicks P s' n).1
    rw [ih.1, ← hstate] at hstate'
    rw [ih.1, ← hout] at hout'
    simp only [runTicks_succ, blockTick, writeOutbuf_datapath, hstate', hout', and_self]

theorem blockCmd_datapath (n : Nat) : (blockCmd P n s).datapath = (blockCmd P n s.datapath).datapath := by
  obtain ⟨hstate, hout⟩ := runTicks_congr_datapath P (ctrlUpdate_datapath P s) n
  have hregs : s.datapath.regs = s.regs := rfl
  rw [blockCmd_eq, blockCmd_eq, hregs, hout]
  exact congrArg (fun u : State => { u with regs := if 0 < n then
    { s.regs with
      outL := (runTicks P (ctrlUpdate P s.datapath) n).2, outR := (runTicks P (ctrlUpdate P s.datapath) n).2 }
    else s.regs }) hstate

/-- The effect of a command on the datapath comes from the datapath alone (R69, R147). -/
theorem execFor_datapath (i : Instr) : (execFor P i s).datapath = (execFor P i s.datapath).datapath := by
  cases i with
  | pmapEval slot =>
    simp only [execFor, pmapEval, pmap_eq, require_eq]
    rfl
  | oscProcess k =>
    simp only [execFor, oscProcessCmd, oscProcess_eq]
    cases k <;> rfl
  | svfProcess =>
    simp only [execFor, svfProcessCmd, filterProcess_eq]
    rfl
  | dlyUpdate =>
    simp only [execFor, delayUpdate_eq]
    rfl
  | dlyProcess =>
    simp only [execFor, dlyProcessCmd, delayProcess_eq]
    rfl
  | sample =>
    simp only [execFor, sampleCmd_eq]
    rfl
  | ctrlUpdate => exact ctrlUpdate_datapath P s
  | block n => exact blockCmd_datapath P s _
  | oscSetFreq k | oscSetAmp k => cases k <;> rfl
  | _ => rfl

end

/-- States with the same datapath differ only in what `State.datapath` clears. -/
theorem eq_of_datapath_eq {s s' : State} (h : s'.datapath = s.datapath) : s' = { s with
    viol := s'.viol, pend := s'.pend, cfgLock := s'.cfgLock, inputs := s'.inputs, sched := s'.sched,
    replies := s'.replies } :=
  congrArg (fun u : State => { u with
    viol := s'.viol, pend := s'.pend, cfgLock := s'.cfgLock, inputs := s'.inputs, sched := s'.sched,
    replies := s'.replies }) h

/-- RESET leaves a datapath that depends only on the configuration, the control frame, the operands and the draw count
(R130). -/
theorem resetDatapath_congr (P : Params) {s s' : State} (hcfg : s'.cfg = s.cfg) (hcf : s'.cf = s.cf)
    (harg0 : s'.regs.arg0 = s.regs.arg0) (harg1 : s'.regs.arg1 = s.regs.arg1) (hdraws : s'.draws = s.draws) :
    (resetDatapath P s').datapath = (resetDatapath P s).datapath := by
  simp only [resetDatapath, State.datapath, hcfg, hcf, harg0, harg1, hdraws]

/-- The effect of a sequence of commands. -/
def execAll (P : Params) (is : List Instr) (s : State) : State :=
  is.foldl (fun u i => execFor P i u) s

theorem execAll_outside (P : Params) (is : List Instr) (s : State) : (execAll P is s).outside = s.outside := by
  induction is generalizing s with
  | nil => rfl
  | cons i is ih => exact (ih _).trans (execFor_outside P s i)

theorem execAll_congr_datapath (P : Params) (is : List Instr) {s s' : State} (h : s'.datapath = s.datapath) :
    (execAll P is s').datapath = (execAll P is s).datapath := by
  induction is generalizing s s' with
  | nil => exact h
  | cons i is ih => exact ih (by rw [execFor_datapath, h, ← execFor_datapath])

/-- Settles O35: RESET makes the two datapaths equal, and the commands keep them so. -/
theorem historyBeforeResetIsForgotten : Obligations.HistoryBeforeResetIsForgotten := by
  intro s s' is hcfg hcf harg0 harg1 hdraws _
  dsimp only
  have hrun (u : State) := List.foldl_hom (l := Instr.reset :: is) (init := u) Host.Outcome.next
    (g₁ := fun u i => execFor Config.params i u)
    (g₂ := fun o i => match o with | .next v => exec i v | o => o) (fun v i => exec_eq i v)
  refine ⟨execAll Config.params (.reset :: is) s, execAll Config.params (.reset :: is) s', hrun s, hrun s', ?_⟩
  have hreset := resetDatapath_congr Config.params hcfg hcf harg0 harg1 hdraws
  have hagree := eq_of_datapath_eq (execAll_congr_datapath Config.params is hreset)
  have houtside := execAll_outside Config.params (.reset :: is) s'
  simp only [State.outside, Prod.mk.injEq] at houtside
  obtain ⟨hpend, hlock, hinputs, hsched, hreplies⟩ := houtside
  rw [← hpend, ← hlock, ← hinputs, ← hsched, ← hreplies]
  exact hagree

/-! ### The end of a pending command -/

section
variable {s : State} {w : Word} (hp : s.pend = some w)
include hp

/-- No write drops the pending command: one to COMMAND only sets OVR (R122). -/
theorem writeReg_pend (r : HostReg) (v : Word) : (s.writeReg r v).pend = some w := by
  have hstore : (s.noteBusyWrite.storeReg r v).pend = some w := by rw [storeReg_eq, noteBusyWrite_eq]; exact hp
  unfold State.writeReg
  split_ifs
  · rw [noteBusyWrite_eq]; exact hp
  · exact hstore
  · exact hstore
  · exact hp
  · exact hp
  · rw [State.writeCommand, hp]; exact hp
  · exact hp

theorem hostWrite_pend (P : Params) (a : Addr) (v : Word) : (s.hostWrite P a v).pend = some w := by
  unfold State.hostWrite
  split
  · exact writeReg_pend hp _ v
  · exact hp

/-- Of the host's events only a power-on reset drops the pending command; the others leave the later events and the
scheduler's picks (R122, R146). -/
theorem hostAct_pend (P : Params) {e : HostEvent} (he : e ≠ .powerOn) :
    (s.hostAct P e).pend = some w ∧ (s.hostAct P e).sched = s.sched ∧ (s.hostAct P e).inputs ⊆ s.inputs := by
  cases e with
  | read a bytes =>
    rw [State.hostAct, hostRead_eq]
    exact ⟨hp, rfl, List.tail_subset _⟩
  | write a bytes v =>
    have hpend := hostWrite_pend hp P a v
    rw [State.hostAct]
    rw [hostWrite_eq] at hpend ⊢
    exact ⟨hpend, rfl, List.tail_subset _⟩
  | wait =>
    have hbusy : s.busy = true := by rw [State.busy, hp]; rfl
    rw [State.hostAct, hbusy, if_pos rfl, hostRead_eq]
    exact ⟨hp, rfl, List.Subset.refl _⟩
  | powerOn => exact absurd rfl he

/-- While a command is pending and the engine does not move, the host takes a legal event, at the pick of the scheduler
(R123). -/
theorem step_of_host_picked (hm : s.engineMoves = false) : ∃ e rest picks, s.inputs = e :: rest ∧
    s.sched = .host :: picks ∧ step s = .next (s.hostAct Config.params e).usePick := by
  have hidle : s.hostEnabled = true ∧ s.sched.head? = some .host := by
    simpa [State.engineMoves, State.busy, hp] using hm
  obtain ⟨henabled, hpick⟩ := hidle
  obtain ⟨picks, hsched⟩ := List.head?_eq_some_iff.1 hpick
  unfold State.hostEnabled at henabled
  split at henabled
  · cases henabled
  · rename_i e rest hin
    exact ⟨e, rest, picks, hin, hsched, by simp [step, hp, hm, hostStep, hin, henabled]⟩

end

/-- The engine's step ends the pending command, whatever the word decodes to (R123). -/
theorem engineStep_pend (w : Word) (s : State) : ∃ u, engineStep w s = .next u ∧ u.pend = none := by
  unfold engineStep
  split
  · exact ⟨_, rfl, rfl⟩
  · rw [exec_eq]; exact ⟨_, rfl, rfl⟩

/-- Settles O50, by induction on the picks: a step at which the host moves uses up one pick for it, and leaves the
command pending unless it is a power-on reset. -/
theorem pendingCommandIsEventuallyTaken : Obligations.PendingCommandIsEventuallyTaken := by
  intro s w hp
  induction hn : s.sched.length using Nat.strong_induction_on generalizing s with | _ n ih =>
  cases hm : s.engineMoves with
  | true =>
    have hstep : step s = engineStep w s := by simp only [step, hp, hm, if_true]
    obtain ⟨u, hu, hidle⟩ := engineStep_pend w s
    exact ⟨0, s, u, Nat.zero_le _, rfl, hp, hstep.trans hu, hidle, .inl hstep, fun _ => hstep⟩
  | false =>
    obtain ⟨e, rest, picks, hin, hsched, hstep⟩ := step_of_host_picked hp hm
    by_cases he : e = .powerOn
    · subst he
      exact ⟨0, s, _, Nat.zero_le _, rfl, hp, hstep, rfl, .inr ⟨hm, by rw [hin]; rfl⟩,
        fun hnone => absurd (by simp [hin]) hnone⟩
    · obtain ⟨hpend, hpicks, hinputs⟩ := hostAct_pend hp Config.params he
      have hlen : (s.hostAct Config.params e).usePick.sched.length + 1 = n := by
        rw [usePick_sched, hpicks, ← hn, hsched]; rfl
      obtain ⟨k, t, u, hk, hrun, htp, htu, hup, hends, hengine⟩ :=
        ih _ (by omega) (s.hostAct Config.params e).usePick hpend rfl
      exact ⟨k + 1, t, u, by omega, (run_succ_of_step hstep k).trans hrun, htp, htu, hup, hends,
        fun hnone => hengine fun hmem => hnone (hinputs hmem)⟩

end Machine
end Sys2Proof
end
